-- ==== Sys2Proof/Word.lean ====
section
/-! DEFINITION. The value types of the model: bytes, 32-bit check values and counts, and the byte memory of a card. -/

namespace Sys2Proof

/-- One byte of a card block or of a track field. -/
abbrev Byte := BitVec 8

/-- The register of the CRC-16 of sector fields (R14). -/
abbrev Word16 := BitVec 16

/-- A check value on the card (R189), or the update count of the volume state record (R162). -/
abbrev Word32 := BitVec 32

/-- Byte-addressed memory: strictly rising addresses, no entry equal to what an unlisted address reads as
(`Machine.Memory.wf`). Block b of a card is the addresses 512 b to 512 b + 511 (R187). -/
abbrev Memory := List Host.Cell

end Sys2Proof
end

