-- ==== Sys2Proof/Syntax.lean ====
section
/-! DEFINITION. The commands: one constructor of `Instr` for each row of spec/opcode_table.json, with its operands. -/

namespace Sys2Proof

/-- One of the two emulated drives. -/
inductive Drive where
  | a
  | b
  deriving DecidableEq, Repr

/-- One of the two capture buffers (R64). -/
inductive BufferId where
  | one
  | two
  deriving DecidableEq, Repr

/-- One of the three keys of the operator panel (R175). -/
inductive PanelKey where
  | prev
  | next
  | enter
  deriving DecidableEq, Repr

/-- How a card transfer ends within its 500 ms (R144); its running out of time is the command TRANSFER_TIMEOUT. -/
inductive TransferEnd where
  | complete
  | error
  deriving DecidableEq, Repr

/-- How an identification exchange ends (R142): the card answers with its block size and its capacity in blocks,
reports an error, or gives no answer within 500 ms. -/
inductive ExchangeEnd where
  | answered (blockSize capacity : Nat)
  | error
  | silence
  deriving DecidableEq, Repr

/-- How a re-identification attempt ends (R145): its exchange or its read of block 0 fails, or block 0 reads.
`changed` is block 0's content where the card was changed by other means than this part. -/
inductive ReinitEnd where
  | failed
  | block0Read (changed : Option (List Byte))
  deriving DecidableEq, Repr

/-- A card as it is pushed into the slot: its lock switch and its bytes (R141, R143, R187). -/
structure CardInSlot where
  locked : Bool
  bytes : Memory
  deriving DecidableEq, Repr

/-- The commands. Each names its row of the table; the meaning is `Machine.exec`. -/
inductive Instr where
  /-- POWER_ON: power comes up (R164). -/
  | powerOn
  /-- POWER_LOSS: the supply fails (R164). -/
  | powerLoss
  /-- SELECT_LINE_CHANGE: SEL0 to SEL3 take these levels, true for asserted (R25). -/
  | selectLineChange (sel0 sel1 sel2 sel3 : Bool)
  /-- MOTOR_LINE_CHANGE: MOT0 and MOT1 take these levels (R26). -/
  | motorLineChange (mot0 mot1 : Bool)
  /-- STEP: a STEP pulse asserts while DIR stands at this level, true for inward (R32). -/
  | step (dir : Bool)
  /-- SIDE_CHANGE: SIDE takes this level, true for head 1 (R27). -/
  | sideChange (side : Bool)
  /-- WGATE_ASSERT (R39). -/
  | wgateAssert
  /-- WGATE_RELEASE (R70). -/
  | wgateRelease
  /-- PFW_ASSERT (R169). -/
  | pfwAssert
  /-- PFW_RELEASE (R171). -/
  | pfwRelease
  /-- RECOVERY_TIMER_EXPIRY (R171). -/
  | recoveryTimerExpiry
  /-- CARD_DETECT_ASSERT: this card closes the card switch (R141). -/
  | cardDetectAssert (card : CardInSlot)
  /-- DEBOUNCE_EXPIRY (R141). -/
  | debounceExpiry
  /-- CARD_REMOVAL: card detect releases (R146, R141). -/
  | cardRemoval
  /-- SPIN_UP_EXPIRY (R30). -/
  | spinUpExpiry (d : Drive)
  /-- SETTLE_EXPIRY (R34). -/
  | settleExpiry (d : Drive)
  /-- SWAP_INTERVAL_EXPIRY (R157). -/
  | swapIntervalExpiry (d : Drive)
  /-- HOLD_LIMIT_EXPIRY (R55). -/
  | holdLimitExpiry
  /-- WRITE_GUARD_EXPIRY (R40). -/
  | writeGuardExpiry
  /-- ARRIVAL_AT_INDEX (R45). -/
  | arrivalAtIndex
  /-- INDEX_WINDOW_END (R49). -/
  | indexWindowEnd
  /-- IDLE_COUNTER_ADVANCE (R165). -/
  | idleCounterAdvance
  /-- IDENTIFICATION_EXCHANGE_END (R142). -/
  | identificationExchangeEnd (r : ExchangeEnd)
  /-- VOLUME_HEADER_READ_END: the read of block 0 ends (R148). -/
  | volumeHeaderReadEnd (r : TransferEnd)
  /-- SETTINGS_READ_END: the read of block 1 ends (R149). -/
  | settingsReadEnd (r : TransferEnd)
  /-- CATALOGUE_READ_END: the read of blocks 2 to 14 ends (R150). -/
  | catalogueReadEnd (r : TransferEnd)
  /-- VOLUME_STATE_READ_END: the read of block 15 ends (R151). -/
  | volumeStateReadEnd (r : TransferEnd)
  /-- TRANSFER_TIMEOUT (R144). -/
  | transferTimeout
  /-- REINIT_ATTEMPT_END (R145). -/
  | reinitAttemptEnd (r : ReinitEnd)
  /-- CARD_SLEEP (R153). -/
  | cardSleep
  /-- WAKE_EXCHANGE_END: true for an answer within 500 ms (R153). -/
  | wakeExchangeEnd (answered : Bool)
  /-- LOAD_START: the arbiter grants the card to the loader (R105). -/
  | loadStart
  /-- PROBE_READ_END: the first-block read of a place that is in flight ends (R108). -/
  | probeReadEnd (r : TransferEnd)
  /-- RECORD_READ_END: the body read of a place ends (R110). -/
  | recordReadEnd (r : TransferEnd)
  /-- OVERLAY_PLACE_READ_END: the first-block read of an overlay place ends (R111). -/
  | overlayPlaceReadEnd (r : TransferEnd)
  /-- LOAD_ABORT: a load given up at EMERGENCY entry reaches its block boundary (R116). -/
  | loadAbort
  /-- MERGE: this buffer's capture is classified and applied (R75). -/
  | merge (buf : BufferId)
  /-- FLUSH_START: the arbiter grants the card to the flusher (R129). -/
  | flushStart
  /-- FLUSH_PROBE_READ_END: a probe read of the flusher ends (R131). -/
  | flushProbeReadEnd (r : TransferEnd)
  /-- FLUSH_WRITE_END: the flush's write completes (R134). -/
  | flushWriteEnd
  /-- FLUSH_ATTEMPT_FAILURE: the flush's write fails on a card error (R136). -/
  | flushAttemptFailure
  /-- VOLUME_STATE_WRITE_START: the arbiter grants a pending volume state write (R163). -/
  | volumeStateWriteStart
  /-- VOLUME_STATE_WRITE_END (R163). -/
  | volumeStateWriteEnd (r : TransferEnd)
  /-- KEY_DEBOUNCE: a key's contact has stayed closed (true) or open for 20 ms (R175). -/
  | keyDebounce (k : PanelKey) (closed : Bool)
  /-- BLINK_HALF_PERIOD (R176). -/
  | blinkHalfPeriod
  /-- BROWSE_ENTRY (R179). -/
  | browseEntry
  /-- BROWSE_STEP: NEXT (true) or PREV is taken in BROWSE (R180). -/
  | browseStep (forward : Bool)
  /-- BROWSE_ENTER (R180). -/
  | browseEnter
  /-- BROWSE_TIMEOUT (R178). -/
  | browseTimeout
  /-- SERVICE_ENTRY (R179). -/
  | serviceEntry
  /-- SERVICE_STEP: NEXT (true) or PREV is taken in SERVICE (R182). -/
  | serviceStep (forward : Bool)
  /-- SERVICE_TIMEOUT (R178). -/
  | serviceTimeout
  /-- SERVICE_LOC: ENTER on the lock item (R184). -/
  | serviceLoc
  /-- SERVICE_REV: ENTER on rEV (R183). -/
  | serviceRev
  /-- SERVICE_FLSH: ENTER on FLSH (R183). -/
  | serviceFlsh
  /-- SERVICE_RST: ENTER on rSt (R172). -/
  | serviceRst
  /-- SERVICE_QUEUE_LENGTH: ENTER on q nn (R183). -/
  | serviceQueueLength
  /-- SERVICE_END: ENTER on End (R183). -/
  | serviceEnd
  /-- PANEL_DRIVE_TOGGLE: ENTER has been held for 2 s (R177). -/
  | panelDriveToggle
  /-- ALERT_ACKNOWLEDGE: a chord begins on ALERT (R181). -/
  | alertAcknowledge
  /-- CELL_TIME: one cell time of the governing rate passes; `wdata` says, for each cell time of the capture
  frame's rate that ends in it, whether a WDATA pulse arrived (R45, R66). -/
  | cellTime (wdata : List Bool)
  deriving DecidableEq, Repr

end Sys2Proof
end

