-- ==== Sys2Proof/Config.lean ====
section
/-! DEFINITION. What is fixed for the part, and the free values: what the manual leaves open, which no proof can see. -/

namespace Sys2Proof.Config

/-- Free value (log 6): how many whole blocks of the n-th write that was cut off had been laid (R133). -/
opaque cutBlocks : Nat → Nat

/-- Free value (log 6): what the block in progress at the n-th cut write holds afterwards; an empty list when no
block was in progress (R133, R163). -/
opaque tornBlock : Nat → List Byte

/-- Bytes in a card block (R142, R144). -/
def blockBytes : Nat := 512

/-- Blocks in a place of a track (R188). -/
def placeBlocks : Nat := 64

/-- Blocks in a drive's scratch area: 168 tracks of 2 places (R148, R187). -/
def scratchBlocks : Nat := 21504

/-- The largest generation a record may carry (R91, R132). -/
def maxGeneration : Nat := 4294967295

/-- Entries the load list holds (R98). -/
def loadListSize : Nat := 6

/-- Attempts of one transfer, exchange or flush (R106, R136, R142, R144, R145). -/
def maxAttempts : Nat := 3

/-- The highest cylinder a head reaches (R32). -/
def maxCylinder : Nat := 84

/-- The idle counter's ceiling in seconds (R165). -/
def maxIdle : Nat := 60

/-- The most sectors a SECTORED record holds (R4). -/
def maxSectors : Nat := 64

/-- The largest size code of a sector (R5). -/
def maxSizeCode : Nat := 6

/-- The largest record on the card in bytes: one place (R19, R21). -/
def maxRecordBytes : Nat := 32768

/-- The smallest record length a header may state (R110). -/
def minRecordBytes : Nat := 516

end Sys2Proof.Config
end

