-- ==== Sys2Proof/Machine/Checks.lean ====
section
/-! DEFINITION. The two check computations (R14, R189) and the byte order of integers on the card (R187). -/

namespace Sys2Proof.Machine

/-- One bit of the CRC-16 of R14: the register shifted left, with the generator 1021 hex where a 1 leaves it. -/
def crc16Bit (r : Word16) : Word16 := if r.msb then (r <<< 1) ^^^ 0x1021#16 else r <<< 1

/-- One byte of the CRC-16, most significant bit first (R14). -/
def crc16Byte (r : Word16) (b : Byte) : Word16 :=
  crc16Bit (crc16Bit (crc16Bit (crc16Bit (crc16Bit (crc16Bit (crc16Bit (crc16Bit
    (r ^^^ (b.zeroExtend 16 <<< 8)))))))))

/-- The CRC-16 of a field's covered bytes: preset FFFF hex, no final complement (R14). -/
def crc16 (bs : List Byte) : Word16 := bs.foldl crc16Byte 0xFFFF#16

/-- A CRC-16 as the two bytes emitted, high byte first (R14). -/
def crc16Bytes (c : Word16) : List Byte := [(c >>> 8).setWidth 8, c.setWidth 8]

/-- One bit of the check of R189, bytes taken least significant bit first: the register held with its highest power
in bit 0, so that the generator 04C11DB7 hex stands as EDB88320 hex (log 18). -/
def crc32Bit (r : Word32) : Word32 := if r.getLsbD 0 then (r >>> 1) ^^^ 0xEDB88320#32 else r >>> 1

/-- One byte of the check of R189. -/
def crc32Byte (r : Word32) (b : Byte) : Word32 :=
  crc32Bit (crc32Bit (crc32Bit (crc32Bit (crc32Bit (crc32Bit (crc32Bit (crc32Bit
    (r ^^^ b.zeroExtend 32))))))))

/-- The check value of R189: preset to all ones, the final register complemented. -/
def crc32 (bs : List Byte) : Word32 := ~~~(bs.foldl crc32Byte 0xFFFFFFFF#32)

/-- The byte at an offset; 0 past the end. -/
def byteAt (bs : List Byte) (i : Nat) : Byte := bs.getD i 0#8

/-- A 16-bit integer stored least significant byte first (R187). -/
def le16At (bs : List Byte) (i : Nat) : Nat := (byteAt bs i).toNat + 256 * (byteAt bs (i + 1)).toNat

/-- A 32-bit integer stored least significant byte first (R187). -/
def le32At (bs : List Byte) (i : Nat) : Nat := le16At bs i + 65536 * le16At bs (i + 2)

/-- The two bytes of a 16-bit integer, least significant first (R187). -/
def le16 (n : Nat) : List Byte := [BitVec.ofNat 8 n, BitVec.ofNat 8 (n / 256)]

/-- The four bytes of a 32-bit integer, least significant first (R187). -/
def le32 (n : Nat) : List Byte := le16 n ++ le16 (n / 65536)

/-- A check value as stored (R189). -/
def checkBytes (bs : List Byte) : List Byte := le32 (crc32 bs).toNat

/-- Whether the check stored at offset `n` passes over the `n` bytes before it (R189). -/
def checkPasses (bs : List Byte) (n : Nat) : Bool := le32At bs n == (crc32 (bs.take n)).toNat

/-- A list cut or padded with zeros to a length. -/
def padTo (n : Nat) (bs : List Byte) : List Byte := bs.take n ++ List.replicate (n - bs.length) 0#8

/-- The number of 512-byte blocks a length of bytes calls for (R21, R110, R133). -/
def blocksFor (n : Nat) : Nat := (n + (Config.blockBytes - 1)) / Config.blockBytes

end Sys2Proof.Machine
end

