-- ==== Sys2Proof/Machine/Memory.lean ====
section
/-! DEFINITION. The card's bytes as memory in one canonical form, read and written by bytes and by 512-byte blocks
(R144, R187). An unlisted address reads as 0 (log 5). -/

namespace Sys2Proof.Machine

/-- What an unlisted address reads as (log 5). -/
def Memory.unlisted : Byte := 0

/-- The canonical form: addresses strictly rising and above `lo` where `lo` is given, no byte equal to what an
unlisted address reads as. -/
def Memory.wfFrom : Option Nat → Memory → Bool
  | _, [] => true
  | lo, (k, v) :: m =>
    (match lo with | none => true | some l => decide (l < k)) && (v != Memory.unlisted) && Memory.wfFrom (some k) m

/-- The canonical form of a memory. -/
def Memory.wf (m : Memory) : Bool := Memory.wfFrom none m

/-- The byte at an address. -/
def Memory.read : Memory → Nat → Byte
  | [], _ => Memory.unlisted
  | (k, v) :: m, a => if k = a then v else Memory.read m a

/-- The memory with one byte written, in canonical form if it was. -/
def Memory.write : Memory → Nat → Byte → Memory
  | [], a, v => if v = Memory.unlisted then [] else [(a, v)]
  | (k, w) :: m, a, v =>
    if a < k then (if v = Memory.unlisted then (k, w) :: m else (a, v) :: (k, w) :: m)
    else if a = k then (if v = Memory.unlisted then m else (a, v) :: m)
    else (k, w) :: Memory.write m a v

/-- The memory with consecutive bytes written from an address. -/
def Memory.writeBytes : Memory → Nat → List Byte → Memory
  | m, _, [] => m
  | m, a, v :: vs => Memory.writeBytes (Memory.write m a v) (a + 1) vs

/-- `n` consecutive bytes from an address. -/
def Memory.readBytes (m : Memory) (a : Nat) : Nat → List Byte
  | 0 => []
  | n + 1 => Memory.read m a :: Memory.readBytes m (a + 1) n

/-- The bytes of `n` blocks from a block address. -/
def Memory.readBlocks (m : Memory) (block n : Nat) : List Byte :=
  Memory.readBytes m (block * Config.blockBytes) (n * Config.blockBytes)

/-- A list of pairs in any order, brought into canonical form; of two pairs at one address the later counts. -/
def Memory.ofCells : List Host.Cell → Memory :=
  List.foldl (fun m c => Memory.write m c.1 c.2) []

end Sys2Proof.Machine
end

