-- ==== Sys2Proof/Machine/State.lean ====
section
/-! DEFINITION. The state of the part, block by block as 00_scope.md lists them, and the state after reset.
Plain data only. A timer that runs is held as the length in ms it was started with (log 4). -/

namespace Sys2Proof.Machine

/-! ### Track records (chapter 1) -/

/-- The two cell encodings (R4, R186). -/
inductive Encoding where
  | fm
  | mfm
  deriving DecidableEq, Repr

/-- The three cell rates, in kcells/s (R2). -/
inductive CellRate where
  | k250
  | k500
  | k1000
  deriving DecidableEq, Repr

/-- The two rotation speeds (R2). -/
inductive Rpm where
  | r300
  | r360
  deriving DecidableEq, Repr

/-- The data mark of a sector (R5). -/
inductive DataMark where
  | normal
  | deleted
  deriving DecidableEq, Repr

/-- One entry of a sector list (R5). The no-data-field flag is set exactly while `data` is absent. -/
structure SectorEntry where
  c : Byte
  h : Byte
  r : Byte
  n : Byte
  mark : DataMark
  idCrcBad : Bool
  dataCrcBad : Bool
  data : Option (List Byte)
  deriving DecidableEq, Repr

/-- A SECTORED record (R4). The index mark is present exactly while `gap1` is. -/
structure Sectored where
  encoding : Encoding
  rate : CellRate
  cells : Nat
  gap4a : Nat
  gap1 : Option Nat
  gap2 : Nat
  gap3 : Nat
  sectors : List SectorEntry
  deriving DecidableEq, Repr

/-- A RAW record (R8): the cells of one revolution, position 0 first; true is a flux transition. -/
structure Raw where
  encoding : Encoding
  rate : CellRate
  cells : Nat
  stream : List Bool
  deriving DecidableEq, Repr

/-- A track record (R1). -/
inductive Record where
  | empty
  | sectored (t : Sectored)
  | raw (t : Raw)
  deriving DecidableEq, Repr

/-- One row of a sector layout table, in cells from index (R16). -/
structure LayoutRow where
  idSyncStart : Nat
  idEnd : Nat
  dataMarkStart : Nat
  dataEnd : Nat
  nextIdSyncStart : Nat
  deriving DecidableEq, Repr

/-- A track's key: image slot, cylinder, head. -/
structure Key where
  image : Nat
  cylinder : Nat
  head : Nat
  deriving DecidableEq, Repr

/-! ### The catalogue (chapters 7 and 10) -/

/-- The write policies of a catalogue entry. -/
inductive Policy where
  | direct
  | overlay
  | locked
  deriving DecidableEq, Repr

/-- A valid catalogue entry (R150, R154, R187); its labels have no use in the part. -/
structure CatalogueEntry where
  cylinders : Nat
  heads : Nat
  rpm : Rpm
  rate : CellRate
  encoding : Encoding
  policy : Policy
  base : Nat
  deriving DecidableEq, Repr

/-! ### The cable and the drives (chapter 2) -/

/-- The levels of the input lines, true for asserted (R22); PFW (R169), the card switch (R141) and the lock switch
of the card in the slot (R143). `dir` is DIR as last read, at a STEP pulse. -/
structure Lines where
  sel0 : Bool
  sel1 : Bool
  sel2 : Bool
  sel3 : Bool
  mot0 : Bool
  mot1 : Bool
  dir : Bool
  side : Bool
  wgate : Bool
  pfw : Bool
  cardDetect : Bool
  lockSwitch : Bool
  deriving DecidableEq, Repr

/-- Where a drive's motor demand comes from (R26). -/
inductive MotorSource where
  | mot0
  | mot1
  | select
  deriving DecidableEq, Repr

/-- What LINE34 shows (R37). -/
inductive Line34Role where
  | ready
  | diskchg
  deriving DecidableEq, Repr

/-- The blink rate setting (R176). -/
inductive BlinkRate where
  | slow
  | fast
  deriving DecidableEq, Repr

/-- The settings in force (R190). `selB` is none for OFF. `enables` holds alert E n at place n - 1. -/
structure Settings where
  selA : Fin 4
  selB : Option (Fin 4)
  motA : MotorSource
  motB : MotorSource
  line34 : Line34Role
  settleMs : Nat
  spinUpMs : Nat
  holdLimitMs : Nat
  swapMs : Nat
  idleSecs : Nat
  urgentOn : Nat
  urgentOff : Nat
  prefetch : Bool
  restoreMounts : Bool
  blink : BlinkRate
  enables : Vector Bool 12
  deriving DecidableEq, Repr

/-- A drive's media state (R28, R29); SWAP runs the swap interval timer (R157). -/
inductive Media where
  | noMedia
  | swap (timerMs : Nat)
  | present
  deriving DecidableEq, Repr

/-- A drive's spindle state (R30); SPINNING_UP runs the spin-up timer. -/
inductive Spindle where
  | stopped
  | spinningUp (timerMs : Nat)
  | atSpeed
  deriving DecidableEq, Repr

/-- A drive's head motion (R33); MOVING runs the settle timer. -/
inductive Motion where
  | settled
  | moving (timerMs : Nat)
  deriving DecidableEq, Repr

/-- A step's direction (R32): IN is toward higher cylinders. -/
inductive StepDir where
  | inward
  | outward
  deriving DecidableEq, Repr

/-- One of the two places of a track (R188). -/
inductive Place where
  | p0
  | p1
  deriving DecidableEq, Repr

/-- One entry of a drive's overlay table (R160). -/
structure OverlayEntry where
  cylinder : Nat
  head : Nat
  place : Place
  generation : Nat
  deriving DecidableEq, Repr

/-- A drive unit record (R28), with its held-key set (R50) and its overlay table (R160). -/
structure DriveUnit where
  media : Media
  spindle : Spindle
  cylinder : Nat
  motion : Motion
  lastDir : StepDir
  diskChange : Bool
  mounted : Option Nat
  heldKeys : List Key
  overlay : List OverlayEntry
  deriving DecidableEq, Repr

/-- An admitted WGATE assertion in progress (R39): the drive it was admitted for, and its capture buffer unless
none was EMPTY (R65). -/
structure Admission where
  drive : Drive
  buffer : Option BufferId
  deriving DecidableEq, Repr

/-- The Cable Interface's own state: whether the 500 ms write guard runs (R40), and the admitted assertion. -/
structure Cable where
  guard : Bool
  admitted : Option Admission
  deriving DecidableEq, Repr

/-! ### Rotation (chapter 3) -/

/-- The index hold (R50); HELD runs the hold limit timer. -/
inductive Hold where
  | none
  | armed
  | held (key : Key) (drive : Drive) (limitMs : Nat)
  deriving DecidableEq, Repr

/-- The Rotation Unit (R45): the counter, the governing track, the hold state. -/
structure Rotation where
  position : Nat
  cells : Nat
  rate : CellRate
  hold : Hold
  deriving DecidableEq, Repr

/-! ### Write capture (chapter 4) -/

/-- The kinds of field the decoder finds (R68). -/
inductive FieldKind where
  | id
  | data
  | deletedData
  | indexMark
  deriving DecidableEq, Repr

/-- A decoded field (R69): its mark's rotation position, its bytes, and for an ID whether it is complete with a
correct CRC. `first` counts recorded cells up to the field's first cell. -/
structure Field where
  kind : FieldKind
  markPos : Nat
  bytes : List Byte
  idGood : Bool
  first : Nat
  deriving DecidableEq, Repr

/-- The field being assembled: its bytes so far, last first, and the cells of the byte begun, last first. -/
structure OpenField where
  kind : FieldKind
  markPos : Nat
  first : Nat
  revBytes : List Byte
  revCells : List Bool
  deriving DecidableEq, Repr

/-- A capture (R65, R66, R70). `revCells` are the cells held, last first; `count` counts all cells recorded;
`recent` are the cells the decoder may still find a mark in, first to last; `opened` is the field being assembled;
`phase` is the time in microseconds since the capture clock's last cell, whatever rate governs (log 9). -/
structure Capture where
  drive : Drive
  key : Key
  encoding : Encoding
  rate : CellRate
  cells : Nat
  start : Nat
  frameChanged : Bool
  orphaned : Bool
  crossings : Nat
  revCells : List Bool
  count : Nat
  recent : List Bool
  opened : Option OpenField
  fields : List Field
  phase : Nat
  deriving DecidableEq, Repr

/-- The capture record after the release (R70). -/
structure Released where
  capture : Capture
  endPos : Nat
  indexCrossed : Bool
  order : Nat
  deriving DecidableEq, Repr

/-- A capture buffer (R64). MERGING lasts no longer than the step that merges (R74, log 12). -/
inductive CaptureBuffer where
  | empty
  | capturing (c : Capture)
  | waitingMerge (r : Released)
  | merging (r : Released)
  deriving DecidableEq, Repr

/-- The Write Capture: two buffers and the release order count (R64, R70). -/
structure CaptureUnit where
  buf1 : CaptureBuffer
  buf2 : CaptureBuffer
  releases : Nat
  deriving DecidableEq, Repr

/-! ### The track cache (chapter 5) -/

/-- The eight slot states (R92). -/
inductive SlotState where
  | free
  | loading
  | clean
  | dirty
  | writing
  | held
  | failed
  | discarding
  deriving DecidableEq, Repr

/-- The part of the card that holds a track's places. -/
inductive Area where
  | image
  | scratch
  deriving DecidableEq, Repr

/-- Where a slot's content stands on the card (R113). -/
inductive Origin where
  | none
  | unknown
  | at (area : Area) (place : Place) (generation : Nat)
  deriving DecidableEq, Repr

/-- The kind of a load (R98). -/
inductive LoadKind where
  | demand
  | prefetch
  deriving DecidableEq, Repr

/-- A load's context, while its slot is LOADING (R91). -/
structure LoadContext where
  kind : LoadKind
  drive : Drive
  abandoned : Bool
  deriving DecidableEq, Repr

/-- A slot record (R91). Its recency rank is its place in `Cache.recency`. -/
structure Slot where
  state : SlotState
  key : Option Key
  record : Option Record
  layout : Option (List LayoutRow)
  origin : Origin
  context : Option LoadContext
  redirty : Bool
  attempts : Nat
  deriving DecidableEq, Repr

/-- An entry of the load list (R98). -/
structure LoadEntry where
  key : Key
  kind : LoadKind
  drive : Drive
  deriving DecidableEq, Repr

/-- The Track Cache: sixteen slots, the recency order with the most recent first, the load list (R91, R96, R98). -/
structure Cache where
  slots : Vector Slot 16
  recency : List (Fin 16)
  loads : List LoadEntry
  deriving DecidableEq, Repr

/-- The Commit Queue, oldest first, and the urgent latch (R119, R122). -/
structure Commit where
  queue : List (Fin 16)
  urgent : Bool
  deriving DecidableEq, Repr

/-! ### The card (chapters 6 and 7) -/

/-- The states of the volume (R162). -/
inductive VolumeState where
  | clean
  | open
  deriving DecidableEq, Repr

/-- The content of the volume state block (R162). -/
structure VolumeRecord where
  state : VolumeState
  slotA : Option Nat
  slotB : Option Nat
  count : Word32
  deriving DecidableEq, Repr

/-- The insertion reads, in their order (R148 to R151). -/
inductive InsertionRead where
  | header
  | settings
  | catalogue
  | volumeState
  deriving DecidableEq, Repr

/-- What a load in flight is reading, with the attempt it is at (R106). `probe1` keeps place 0's first block;
`body` keeps its own place's first block, the other VALID place's first block while that is still to be read, and
the place with the higher generation among the VALID ones (R109, R110). -/
inductive LoadStage where
  | probe0 (attempt : Nat)
  | probe1 (attempt : Nat) (head0 : List Byte)
  | overlayHead (attempt : Nat) (place : Place) (generation : Nat)
  | body (attempt : Nat) (place : Place) (head : List Byte) (other : Option (List Byte)) (newest : Origin)
  deriving DecidableEq, Repr

/-- A load in flight (R106, R107): its slot, the area and the first block of place 0, whether it is to be given up
at the next block boundary (R116), and its stage. -/
structure LoadOp where
  slot : Fin 16
  area : Area
  base : Nat
  abort : Bool
  stage : LoadStage
  deriving DecidableEq, Repr

/-- What a flush in flight is doing (R131, R133): `check` reads the body of the newer VALID place, with the other
VALID place's generation to fall back to; `write` is the block-run write of its target. -/
inductive FlushStage where
  | probe0 (attempt : Nat)
  | probe1 (attempt : Nat) (head0 : List Byte)
  | check (attempt : Nat) (place : Place) (head : List Byte) (otherGeneration : Nat)
  | write (place : Place) (generation : Nat)
  deriving DecidableEq, Repr

/-- A flush in flight (R129, R130): its slot, the key it writes, the area, the drive whose scratch area it is, the
first block of place 0, and its stage. Its attempts are the slot's. -/
structure FlushOp where
  slot : Fin 16
  key : Key
  area : Area
  drive : Option Drive
  base : Nat
  stage : FlushStage
  deriving DecidableEq, Repr

/-- The card's holder with the operation it holds it for (R125). -/
inductive Holder where
  | none
  | volumeRead (stage : InsertionRead) (attempt : Nat)
  | volumeWrite (content : VolumeRecord) (attempt : Nat)
  | loader (op : LoadOp)
  | flusher (op : FlushOp)
  deriving DecidableEq, Repr

/-- The state REINIT returns to (R145). -/
inductive ReinitReturn where
  | readingVolume
  | ready
  deriving DecidableEq, Repr

/-- The card states (R140). SETTLING runs the 100 ms debounce (R141). -/
inductive CardState where
  | absent
  | settling
  | identifying (failures : Nat)
  | readingVolume
  | ready
  | asleep
  | waking
  | reinit (back : ReinitReturn) (failures : Nat)
  | fault
  deriving DecidableEq, Repr

/-- The Card Unit, the Card Arbiter's holder and the card transfer buffer (R125, R129, R140 to R148), and the bytes
of the card in the slot (R187). -/
structure Card where
  state : CardState
  holder : Holder
  buffer : Option (List Byte)
  writeLocked : Bool
  writeFault : Bool
  capacity : Option Nat
  header : Option (List Byte)
  scratchA : Option Nat
  scratchB : Option Nat
  medium : Memory
  deriving DecidableEq, Repr

/-- The target of a pending volume state write (R162). -/
inductive WriteTarget where
  | recorded
  | open
  | clean
  deriving DecidableEq, Repr

/-- A mount request (R155); none as slot is an unmount request. -/
structure MountRequest where
  drive : Drive
  slot : Option Nat
  deriving DecidableEq, Repr

/-- The Mount Manager: the catalogue, the volume state record, the pending volume state write, and the mount
requests that wait for the card to leave WAKING (R150, R155, R162). -/
structure Volume where
  catalogue : Vector (Option CatalogueEntry) 100
  record : Option VolumeRecord
  pendingWrite : Option WriteTarget
  deferred : List MountRequest
  deriving DecidableEq, Repr

/-! ### Power (chapter 8) -/

/-- The power states (R164). -/
inductive PowerState where
  | run
  | drain
  | quiet
  | emergency
  | spent
  deriving DecidableEq, Repr

/-- The steps of a drain that ends by closing the volume (R167, R170, R172). -/
inductive CloseStage where
  | draining
  | closing
  deriving DecidableEq, Repr

/-- What the Power Unit is carrying out: the idle drain, up to its sleep request (R167), the emergency drain (R170),
or a restart (R172). While a job is draining it is a requester of drain mode (R124). -/
inductive Job where
  | none
  | idle (stage : CloseStage)
  | idleSleep
  | emergency (stage : CloseStage)
  | restart (stage : CloseStage)
  deriving DecidableEq, Repr

/-- The Power Unit (R164, R165, R171), and FLSH's request on drain mode (R183). -/
structure Power where
  state : PowerState
  idle : Nat
  recovery : Bool
  job : Job
  flsh : Bool
  deriving DecidableEq, Repr

/-! ### Panel (chapter 9) -/

/-- A key of the panel (R175): pressed, stale; `chorded` if the present press became part of a chord, `used` if its
action has been taken, `clicked` if it has just been released as a single press in NORMAL (R179). -/
structure KeyState where
  pressed : Bool
  stale : Bool
  chorded : Bool
  used : Bool
  clicked : Bool
  deriving DecidableEq, Repr

/-- The service items in their order (R182). -/
inductive ServiceItem where
  | lock
  | revert
  | flush
  | restart
  | queueLength
  | endItem
  deriving DecidableEq, Repr

/-- The pages (R178), with BROWSE's candidate (none is "--") and SERVICE's item. -/
inductive Page where
  | normal
  | browse (candidate : Option Nat)
  | alert
  | service (item : ServiceItem)
  deriving DecidableEq, Repr

/-- The Operator Panel (R175 to R184). -/
structure Panel where
  prev : KeyState
  next : KeyState
  enter : KeyState
  page : Page
  drive : Drive
  lock : Bool
  blinkLit : Bool
  blinkPeriod : Nat
  deriving DecidableEq, Repr

/-- The twelve alert latches (R185). -/
inductive Alert where
  | dirtyLost
  | readFail
  | writeFail
  | recordBad
  | late
  | writeLost
  | demoted
  | cableFault
  | settingsBad
  | unclean
  | cardFault
  | mountRefused
  deriving DecidableEq, Repr

/-! ### The whole -/

/-- The state of the part. -/
structure State where
  /-- The supply is up (R164). -/
  powered : Bool
  lines : Lines
  settings : Settings
  cable : Cable
  driveA : DriveUnit
  driveB : DriveUnit
  rotation : Rotation
  capture : CaptureUnit
  cache : Cache
  commit : Commit
  card : Card
  volume : Volume
  power : Power
  panel : Panel
  /-- The alert latches, E n at place n - 1 (R185). -/
  alerts : Vector Bool 12
  /-- How many free values have been drawn (log 6). -/
  freeCount : Nat
  /-- The commands that wait, first in first out. -/
  pending : List Instr
  deriving DecidableEq, Repr

/-- The reasons a command could stop the part. There is none: every error of the part ends in its own state, as the
alert latches, FAILED slots, the write fault and the card state FAULT (R110, R137, R147, R185), so no meaning raises
a fault. -/
inductive Fault where
  deriving DecidableEq, Repr

/-- The reasons a command has no meaning. -/
inductive Refusal where
  /-- Raised by `exec` alone, for a row that has no meaning yet; safe, since nothing is claimed of such a row. No row
  is left so. -/
  | notModelled (mnemonic : String)
  deriving DecidableEq, Repr

/-- The default settings (R190). -/
def Settings.defaults : Settings where
  selA := 0
  selB := none
  motA := .mot0
  motB := .mot1
  line34 := .ready
  settleMs := 18
  spinUpMs := 250
  holdLimitMs := 400
  swapMs := 1000
  idleSecs := 8
  urgentOn := 10
  urgentOff := 4
  prefetch := true
  restoreMounts := true
  blink := .slow
  enables := Vector.replicate 12 true

/-- A drive unit record at power-on (R44). -/
def DriveUnit.powerOn : DriveUnit where
  media := .noMedia
  spindle := .stopped
  cylinder := 0
  motion := .settled
  lastDir := .inward
  diskChange := true
  mounted := none
  heldKeys := []
  overlay := []

/-- A FREE slot's values (R91). -/
def Slot.free : Slot where
  state := .free
  key := none
  record := none
  layout := none
  origin := .none
  context := none
  redirty := false
  attempts := 0

/-- A key at power-on: stale until it is first seen released (R175). -/
def KeyState.powerOn : KeyState where
  pressed := false
  stale := true
  chorded := false
  used := false
  clicked := false

/-- All input lines released and no card in the slot (log 1). -/
def Lines.released : Lines where
  sel0 := false
  sel1 := false
  sel2 := false
  sel3 := false
  mot0 := false
  mot1 := false
  dir := false
  side := false
  wgate := false
  pfw := false
  cardDetect := false
  lockSwitch := false

/-- The part right after power-on (R164 and the power-on columns of the chapters), with every input line released
and no card (log 1). The release order count starts at 0 (log 34), and the blink stands lit with a period of 1,000 ms
while nothing blinks (log 40). -/
def State.reset : State where
  powered := true
  lines := Lines.released
  settings := Settings.defaults
  cable := { guard := true, admitted := none }
  driveA := DriveUnit.powerOn
  driveB := DriveUnit.powerOn
  rotation := { position := 0, cells := 100000, rate := .k500, hold := .none }
  capture := { buf1 := .empty, buf2 := .empty, releases := 0 }
  cache := { slots := Vector.replicate 16 Slot.free, recency := [], loads := [] }
  commit := { queue := [], urgent := false }
  card :=
    { state := .absent, holder := .none, buffer := none, writeLocked := false, writeFault := false, capacity := none
      header := none, scratchA := none, scratchB := none, medium := [] }
  volume := { catalogue := Vector.replicate 100 none, record := none, pendingWrite := none, deferred := [] }
  power := { state := .run, idle := 0, recovery := false, job := .none, flsh := false }
  panel :=
    { prev := KeyState.powerOn, next := KeyState.powerOn, enter := KeyState.powerOn, page := .normal, drive := .a
      lock := false, blinkLit := true, blinkPeriod := 1000 }
  alerts := Vector.replicate 12 false
  freeCount := 0
  pending := []

end Sys2Proof.Machine
end

