-- ==== Sys2Proof/Machine/Render.lean ====
section
/-! DEFINITION. Track records as revolutions: cells per revolution (R2), the render of a SECTORED record (R9 to R15),
the sector layout table (R16, R17), blank revolutions (R59), cells (R186). -/

namespace Sys2Proof.Machine

/-- A cell rate in kcells/s. -/
def CellRate.kcells : CellRate → Nat
  | .k250 => 250
  | .k500 => 500
  | .k1000 => 1000

/-- The length of a cell time in microseconds (R2). -/
def CellRate.cellMicros : CellRate → Nat
  | .k250 => 4
  | .k500 => 2
  | .k1000 => 1

/-- A rotation speed in rpm. -/
def Rpm.value : Rpm → Nat
  | .r300 => 300
  | .r360 => 360

/-- The cells per revolution: the cell rate in cells per second times 60 over the rpm, to the nearest whole (R2). -/
def cellsPerRev (rate : CellRate) (rpm : Rpm) : Nat :=
  (rate.kcells * 1000 * 60 + rpm.value / 2) / rpm.value

/-- The bytes per revolution (R9). -/
def bytesPerRev (cells : Nat) : Nat := cells / 16

/-- The remaining cells after the last whole byte (R9). -/
def remainingCells (cells : Nat) : Nat := cells % 16

/-! ### Elements (R10) -/

/-- The length of a sync in bytes (R10). -/
def syncLength : Encoding → Nat
  | .mfm => 12
  | .fm => 6

/-- The length of a mark in bytes (R10). -/
def markLength : Encoding → Nat
  | .mfm => 4
  | .fm => 1

/-- The fill byte (R10). -/
def fillByte : Encoding → Byte
  | .mfm => 0x4E#8
  | .fm => 0xFF#8

/-- The data length of a size code (R5). -/
def dataLength (n : Nat) : Nat := 128 * 2 ^ n

/-- The mark byte of a field (R68, R186). -/
def FieldKind.markByte : FieldKind → Byte
  | .id => 0xFE#8
  | .data => 0xFB#8
  | .deletedData => 0xF8#8
  | .indexMark => 0xFC#8

/-- The field kind a data mark opens (R11). -/
def DataMark.fieldKind : DataMark → FieldKind
  | .normal => .data
  | .deleted => .deletedData

/-- A byte of a render by how its cells are made (R10, R186). -/
inductive RenderByte where
  | plain (b : Byte)
  | syncA1
  | syncC2
  | fmMark (clock b : Byte)
  deriving DecidableEq, Repr

/-- A run of ordinary bytes. -/
def plainBytes (bs : List Byte) : List RenderByte := bs.map .plain

/-- Fill of a length (R10). -/
def fillBytes (e : Encoding) (n : Nat) : List RenderByte := List.replicate n (.plain (fillByte e))

/-- A sync (R10). -/
def syncBytes (e : Encoding) : List RenderByte := List.replicate (syncLength e) (.plain 0#8)

/-- A mark (R10, R186). -/
def markBytes (e : Encoding) (k : FieldKind) : List RenderByte :=
  match e, k with
  | .mfm, .indexMark => [.syncC2, .syncC2, .syncC2, .plain k.markByte]
  | .mfm, _ => [.syncA1, .syncA1, .syncA1, .plain k.markByte]
  | .fm, .indexMark => [.fmMark 0xD7#8 k.markByte]
  | .fm, _ => [.fmMark 0xC7#8 k.markByte]

/-- The bytes of a field its CRC covers: the sync-mark bytes in MFM, the mark byte, the body (R14). -/
def coveredBytes (e : Encoding) (k : FieldKind) (body : List Byte) : List Byte :=
  (match e with | .mfm => [0xA1#8, 0xA1#8, 0xA1#8] | .fm => []) ++ k.markByte :: body

/-- The CRC bytes of a field, the complement where its bad flag is set (R14, R15). -/
def fieldCrc (e : Encoding) (k : FieldKind) (body : List Byte) (bad : Bool) : List Byte :=
  let c := crc16 (coveredBytes e k body)
  crc16Bytes (if bad then ~~~c else c)

/-- Whether a captured field's two bytes after its body are its correct CRC (R14, R79, R82). -/
def crcCorrect (e : Encoding) (k : FieldKind) (body crc : List Byte) : Bool := fieldCrc e k body false == crc

/-! ### The render of a SECTORED record (R11, R12) -/

/-- The ID part of a sector (R11). -/
def renderId (t : Sectored) (x : SectorEntry) : List RenderByte :=
  let body := [x.c, x.h, x.r, x.n]
  syncBytes t.encoding ++ markBytes t.encoding .id ++ plainBytes body
    ++ plainBytes (fieldCrc t.encoding .id body x.idCrcBad) ++ fillBytes t.encoding t.gap2

/-- The data part of a sector, nothing while it has no data field (R6, R11). -/
def renderData (t : Sectored) (x : SectorEntry) : List RenderByte :=
  match x.data with
  | none => []
  | some bs =>
    syncBytes t.encoding ++ markBytes t.encoding x.mark.fieldKind ++ plainBytes bs
      ++ plainBytes (fieldCrc t.encoding x.mark.fieldKind bs x.dataCrcBad) ++ fillBytes t.encoding t.gap3

/-- The part before the first sector: gap4a, and with the index mark its sync, mark and gap1 (R11). -/
def renderLead (t : Sectored) : List RenderByte :=
  fillBytes t.encoding t.gap4a ++
    match t.gap1 with
    | none => []
    | some g => syncBytes t.encoding ++ markBytes t.encoding .indexMark ++ fillBytes t.encoding g

/-- The elements of a render before gap4b (R11). -/
def renderElements (t : Sectored) : List RenderByte :=
  renderLead t ++ t.sectors.flatMap fun x => renderId t x ++ renderData t x

/-- The bytes of a render: the elements, cut at the revolution end, then gap4b (R11, R12). -/
def renderBytes (t : Sectored) : List RenderByte :=
  let n := bytesPerRev t.cells
  let elements := (renderElements t).take n
  elements ++ fillBytes t.encoding (n - elements.length)

/-- The length in bytes of the part before the first sector (R11). -/
def leadLength (t : Sectored) : Nat :=
  t.gap4a + match t.gap1 with
    | none => 0
    | some g => syncLength t.encoding + markLength t.encoding + g

/-- The length in bytes from a sector's ID sync to the end of its ID CRC (R11). -/
def idPartLength (e : Encoding) : Nat := syncLength e + markLength e + 4 + 2

/-- The length in bytes of a data field with its sync and CRC, without gap3 (R11). -/
def dataPartLength (e : Encoding) (len : Nat) : Nat := syncLength e + markLength e + len + 2

/-- The length in bytes of a sector with the gaps after its fields (R11). -/
def sectorLength (t : Sectored) (x : SectorEntry) : Nat :=
  idPartLength t.encoding + t.gap2 +
    match x.data with
    | none => 0
    | some bs => dataPartLength t.encoding bs.length + t.gap3

/-- The gap that closes a sector: gap2 with no data field, gap3 with one (R12). -/
def closingGap (t : Sectored) (x : SectorEntry) : Nat :=
  match x.data with
  | none => t.gap2
  | some _ => t.gap3

/-- The required length of a render in bytes (R12). -/
def requiredLength (t : Sectored) : Nat :=
  let total := leadLength t + (t.sectors.map (sectorLength t)).sum
  match t.sectors.getLast? with
  | none => total
  | some x => total - closingGap t x

/-- Whether a record fits its revolution (R12). -/
def fitsRevolution (t : Sectored) : Bool := decide (requiredLength t ≤ bytesPerRev t.cells)

/-! ### Cells (R186, R13) -/

/-- The eight data bits of a byte, most significant first (R186). -/
def byteBits (b : Byte) : List Bool :=
  [b.getLsbD 7, b.getLsbD 6, b.getLsbD 5, b.getLsbD 4, b.getLsbD 3, b.getLsbD 2, b.getLsbD 1, b.getLsbD 0]

/-- The cells of data bits in MFM after a given data bit: the clock is 1 between two 0 bits (R186). -/
def mfmCells : Bool → List Bool → List Bool
  | _, [] => []
  | prev, b :: bs => (!prev && !b) :: b :: mfmCells b bs

/-- Clock bits and data bits laid alternately, clock first (R186). -/
def interleave : List Bool → List Bool → List Bool
  | c :: cs, d :: ds => c :: d :: interleave cs ds
  | _, _ => []

/-- The sixteen cells of a 16-bit pattern, most significant first. -/
def patternCells (p : Word16) : List Bool :=
  byteBits ((p >>> 8).setWidth 8) ++ byteBits (p.setWidth 8)

/-- The A1 sync-mark byte with its missing clock (R186). -/
def syncA1Cells : List Bool := patternCells 0x4489#16

/-- The C2 index sync byte with its missing clock (R186). -/
def syncC2Cells : List Bool := patternCells 0x5224#16

/-- The sixteen cells of one byte after a given data bit (R186). -/
def byteCells (e : Encoding) (prev : Bool) (b : RenderByte) : List Bool :=
  match b with
  | .plain v =>
    match e with
    | .mfm => mfmCells prev (byteBits v)
    | .fm => interleave (byteBits 0xFF#8) (byteBits v)
  | .syncA1 => syncA1Cells
  | .syncC2 => syncC2Cells
  | .fmMark clock v => interleave (byteBits clock) (byteBits v)

/-- The last data bit of a byte (R186). -/
def RenderByte.lastBit : RenderByte → Bool
  | .plain v => v.getLsbD 0
  | .syncA1 => true
  | .syncC2 => false
  | .fmMark _ v => v.getLsbD 0

/-- The cells of a run of bytes after a given data bit. -/
def runCells (e : Encoding) : Bool → List RenderByte → List Bool
  | _, [] => []
  | prev, b :: bs => byteCells e prev b ++ runCells e b.lastBit bs

/-- The last data bit of a run of bytes, or the given one for an empty run. -/
def runLastBit (prev : Bool) (bs : List RenderByte) : Bool :=
  match bs.getLast? with
  | none => prev
  | some b => b.lastBit

/-- The last data cell before the revolution end: in the remaining cells of one more fill byte if they hold a data
cell, else in the last whole byte (R13). -/
def ringLastBit (e : Encoding) (cells : Nat) (bs : List RenderByte) : Bool :=
  if remainingCells cells / 2 = 0 then runLastBit false bs
  else (byteBits (fillByte e)).getD (remainingCells cells / 2 - 1) false

/-- The ring of whole bytes and remaining cells (R9, R13). -/
def ringCells (e : Encoding) (cells : Nat) (bs : List RenderByte) : List Bool :=
  runCells e (ringLastBit e cells bs) bs
    ++ (byteCells e (runLastBit false bs) (.plain (fillByte e))).take (remainingCells cells)

/-- The render of a SECTORED record as cells (R9, R11). -/
def renderCells (t : Sectored) : List Bool := ringCells t.encoding t.cells (renderBytes t)

/-- A blank revolution: fill over the whole ring (R59). -/
def blankCells (e : Encoding) (cells : Nat) : List Bool := ringCells e cells (fillBytes e (bytesPerRev cells))

/-! ### The sector layout table (R16, R17) -/

/-- The layout rows of sectors whose first ID sync starts at byte `off`. A sector without a
data field takes the positions it would have with one (R17). -/
def layoutRows (t : Sectored) : Nat → List SectorEntry → List LayoutRow
  | _, [] => []
  | off, x :: xs =>
    let idEnd := off + idPartLength t.encoding
    let mark := idEnd + t.gap2 + syncLength t.encoding
    let len := match x.data with
      | some bs => bs.length
      | none => dataLength x.n.toNat
    let dataEnd := mark + markLength t.encoding + len + 2
    let next := off + sectorLength t x
    { idSyncStart := off * 16, idEnd := idEnd * 16, dataMarkStart := mark * 16, dataEnd := dataEnd * 16
      nextIdSyncStart := if xs.isEmpty then t.cells else next * 16 } :: layoutRows t next xs

/-- The sector layout table of a SECTORED record (R16). -/
def layoutTable (t : Sectored) : List LayoutRow := layoutRows t (leadLength t) t.sectors

/-- The table a slot holds for its record: a SECTORED record has one, others none (R3, R8, R18). -/
def Record.layout : Record → Option (List LayoutRow)
  | .sectored t => some (layoutTable t)
  | .raw _ => none
  | .empty => none

end Sys2Proof.Machine
end

