-- ==== Sys2Proof/Machine/Decoder.lean ====
section
/-! DEFINITION. A capture buffer while it records: the cells it holds (R66), the marks and fields its decoder finds
(R68, R69), and its closing at the release (R70). -/

namespace Sys2Proof.Machine

/-- The data bits of cells that begin with a clock cell (R68). -/
def dataBits : List Bool → List Bool
  | _ :: d :: rest => d :: dataBits rest
  | _ => []

/-- Eight bits as a byte, most significant first. -/
def bitsByte (bs : List Bool) : Byte := bs.foldl (fun v b => (v <<< 1) ||| (if b then 1#8 else 0#8)) 0#8

/-- The byte read from sixteen cells by its data cells; clocks are not checked (R68). -/
def cellsByte (cs : List Bool) : Byte := bitsByte (dataBits cs)

/-- The cells of a mark (R68). -/
def markCells (e : Encoding) : Nat := markLength e * 16

/-- What the cells at the front of the decoder's window are: nothing yet, three sync-mark bytes followed by a byte
that makes no mark, or a mark (R68, log 20). -/
inductive MarkTest where
  | nothing
  | broken
  | mark (k : FieldKind)
  deriving DecidableEq, Repr

/-- The kind of mark three A1 sync-mark bytes and this byte make (R68). -/
def a1Mark (b : Byte) : MarkTest :=
  if b = FieldKind.id.markByte then .mark .id
  else if b = FieldKind.data.markByte then .mark .data
  else if b = FieldKind.deletedData.markByte then .mark .deletedData
  else .broken

/-- The kind of mark three C2 index sync bytes and this byte make (R68). -/
def c2Mark (b : Byte) : MarkTest :=
  if b = FieldKind.indexMark.markByte then .mark .indexMark else .broken

/-- The mark test of a full MFM window of 64 cells (R68). The mark byte is read by its data cells, its clock cells not
checked (log 20). -/
def mfmTest (w : List Bool) : MarkTest :=
  let sync := w.take 48
  let b := cellsByte (w.drop 48)
  if sync = syncA1Cells ++ syncA1Cells ++ syncA1Cells then a1Mark b
  else if sync = syncC2Cells ++ syncC2Cells ++ syncC2Cells then c2Mark b
  else .nothing

/-- The cells of an FM mark (R186). -/
def fmMarkCells (k : FieldKind) : List Bool :=
  (markBytes .fm k).flatMap (byteCells .fm false)

/-- The mark test of a full FM window of 16 cells (R68). -/
def fmTest (w : List Bool) : MarkTest :=
  if w = fmMarkCells .id then .mark .id
  else if w = fmMarkCells .data then .mark .data
  else if w = fmMarkCells .deletedData then .mark .deletedData
  else if w = fmMarkCells .indexMark then .mark .indexMark
  else .nothing

/-- The mark test of the decoder's window; a window that is not full shows nothing. -/
def markTest (e : Encoding) (w : List Bool) : MarkTest :=
  if w.length < markCells e then .nothing
  else match e with
    | .mfm => mfmTest w
    | .fm => fmTest w

/-- A field closed with these bytes (R69). An ID is good when it has its six bytes with a correct CRC. -/
def OpenField.close (e : Encoding) (f : OpenField) (bytes : List Byte) : Field :=
  { kind := f.kind, markPos := f.markPos, bytes := bytes, first := f.first
    idGood := decide (f.kind = .id) && bytes.length == 6 && crcCorrect e .id (bytes.take 4) (bytes.drop 4) }

/-- The open field with one more cell: every sixteenth completes a byte (R68). -/
def OpenField.push (f : OpenField) (cell : Bool) : OpenField :=
  let cs := cell :: f.revCells
  if cs.length < 16 then { f with revCells := cs }
  else { f with revCells := [], revBytes := cellsByte cs.reverse :: f.revBytes }

/-- The bytes a field keeps when a mark of the encoding ends it: an ID those it has, a data field the whole bytes
before the mark (R69, log 20). -/
def OpenField.bytesAtMark (e : Encoding) (f : OpenField) : List Byte :=
  match f.kind with
  | .id => f.revBytes.reverse
  | _ => f.revBytes.reverse.take ((f.revBytes.length * 16 + f.revCells.length - markCells e) / 16)

/-- The cell taken into the open field; an ID closes at its sixth byte (R69). -/
def Capture.feedField (c : Capture) (cell : Bool) : Capture :=
  match c.opened with
  | none => c
  | some f =>
    let f := f.push cell
    if f.kind = .id ∧ f.revBytes.length = 6 then
      { c with opened := none, fields := c.fields ++ [f.close c.encoding f.revBytes.reverse] }
    else { c with opened := some f }

/-- The fields with the open one closed as a mark closes it (R69). -/
def Capture.fieldsAtMark (c : Capture) : List Field :=
  match c.opened with
  | none => c.fields
  | some f => c.fields ++ [f.close c.encoding (f.bytesAtMark c.encoding)]

/-- A mark of kind `k` has just ended: the open field closes and a field of that kind opens; an INDEX_MARK field ends
at its mark (R68, R69). -/
def Capture.openMark (c : Capture) (k : FieldKind) : Capture :=
  let first := c.count - markCells c.encoding
  let f : OpenField :=
    { kind := k, markPos := (c.start + first) % c.cells, first := first, revBytes := [], revCells := [] }
  let c := { c with fields := c.fieldsAtMark, opened := none, recent := [] }
  match k with
  | .indexMark => { c with fields := c.fields ++ [f.close c.encoding []] }
  | _ => { c with opened := some f }

/-- The cell taken into the decoder's window, and the mark it may complete (R68). -/
def Capture.feedWindow (c : Capture) (cell : Bool) : Capture :=
  let w := c.recent ++ [cell]
  let w := if markCells c.encoding < w.length then w.drop 1 else w
  match markTest c.encoding w with
  | .nothing => { c with recent := w }
  | .broken => { c with recent := w.drop 48 }
  | .mark k => { c with recent := w }.openMark k

/-- The cell added to the cells held; a full buffer drops its earliest cell and every field that cell belonged to
(R66, R69). -/
def Capture.holdCell (c : Capture) (cell : Bool) : Capture :=
  if c.count < c.cells then { c with revCells := cell :: c.revCells, count := c.count + 1 }
  else
    let dropped := c.count + 1 - c.cells
    { c with
      revCells := (cell :: c.revCells).dropLast
      count := c.count + 1
      fields := c.fields.filter fun f => dropped ≤ f.first
      opened := c.opened.filter fun f => dropped ≤ f.first }

/-- One cell recorded (R66, R68, R69). -/
def Capture.record (c : Capture) (cell : Bool) : Capture :=
  ((c.holdCell cell).feedField cell).feedWindow cell

/-- The time since the capture's last cell, turned into cells: one for each whole cell time of the capture frame's rate
in it, a 1 where a WDATA pulse arrived (R66, log 9). -/
def Capture.recordDue : Nat → List Bool → Capture → Capture
  | 0, _, c => c
  | n + 1, wdata, c =>
    if c.phase < c.rate.cellMicros then c
    else
      Capture.recordDue n wdata.tail
        { c.record (wdata.headD false) with phase := c.phase - c.rate.cellMicros }

/-- One cell time of the governing rate passes (R66, R67, log 9). Less than one cell time of the capture frame stood
over, so at most four are due. -/
def Capture.tick (gov : CellRate) (wdata : List Bool) (c : Capture) : Capture :=
  Capture.recordDue 4 wdata { c with phase := c.phase + gov.cellMicros }

/-- `n` cell times of the governing rate with no WDATA pulse. -/
def Capture.silence (gov : CellRate) : Nat → Capture → Capture
  | 0, c => c
  | n + 1, c => Capture.silence gov n (c.tick gov [])

/-- The capture closed at the release: the field being assembled keeps its whole bytes (R69). -/
def Capture.close (c : Capture) : Capture :=
  match c.opened with
  | none => c
  | some f => { c with opened := none, fields := c.fields ++ [f.close c.encoding f.revBytes.reverse] }

/-- The cells held, first to last (R70). -/
def Capture.stream (c : Capture) : List Bool := c.revCells.reverse

/-- The position of the first cell held (R80). -/
def Capture.firstPos (c : Capture) : Nat := (c.start + (c.count - c.revCells.length)) % c.cells

end Sys2Proof.Machine
end

