-- ==== Sys2Proof/Machine/Flags.lean ====
section
/-! DEFINITION. The alert latches and their enables (R181, R185). -/

namespace Sys2Proof.Machine

/-- The place of a latch: E n stands at n - 1 (R185). -/
def Alert.index : Alert → Fin 12
  | .dirtyLost => 0
  | .readFail => 1
  | .writeFail => 2
  | .recordBad => 3
  | .late => 4
  | .writeLost => 5
  | .demoted => 6
  | .cableFault => 7
  | .settingsBad => 8
  | .unclean => 9
  | .cardFault => 10
  | .mountRefused => 11

/-- Whether a latch is set. -/
def State.isLatched (s : State) (a : Alert) : Bool := s.alerts[a.index]

/-- A latch set by its event; setting a set latch changes nothing (R185). -/
def State.latch (s : State) (a : Alert) : State := { s with alerts := s.alerts.set a.index true }

/-- A latch set where a condition holds. -/
def State.latchIf (s : State) (c : Bool) (a : Alert) : State := if c then s.latch a else s

/-- Whether the latch at a place is set and enabled (R185). -/
def State.showable (s : State) (i : Fin 12) : Bool := s.alerts[i] && s.settings.enables[i]

/-- The twelve places of the latches, lowest code first. -/
def alertPlaces : List (Fin 12) := [0, 1, 2, 3, 4, 5, 6, 7, 8, 9, 10, 11]

/-- The lowest latch that is set and enabled (R181). -/
def State.shownLatch (s : State) : Option (Fin 12) := alertPlaces.find? s.showable

/-- The latch at a place cleared, as the acknowledge does (R181). -/
def State.clearLatch (s : State) (i : Fin 12) : State := { s with alerts := s.alerts.set i false }

end Sys2Proof.Machine
end

