-- ==== Sys2Proof/Machine/Formats.lean ====
section
/-! DEFINITION. The layouts of the card: volume header, settings record, catalogue, volume state block (R187, R190),
places and track records, read and written (R188, R19, R21). -/

namespace Sys2Proof.Machine

/-! ### Codes -/

/-- An encoding's code (R187, R188). -/
def Encoding.code : Encoding → Byte
  | .fm => 0#8
  | .mfm => 1#8

/-- The encoding of a code, if it is one of the listed values. -/
def Encoding.ofCode (b : Byte) : Option Encoding :=
  if b = 0#8 then some .fm else if b = 1#8 then some .mfm else none

/-- The cell rate of a number of kcells/s, if it is one of the listed values. -/
def CellRate.ofKcells (n : Nat) : Option CellRate :=
  if n = 250 then some .k250 else if n = 500 then some .k500 else if n = 1000 then some .k1000 else none

/-- The rotation speed of an rpm, if it is one of the listed values. -/
def Rpm.ofValue (n : Nat) : Option Rpm :=
  if n = 300 then some .r300 else if n = 360 then some .r360 else none

/-- The write policy of a code, if it is one of the listed values (R187). -/
def Policy.ofCode (b : Byte) : Option Policy :=
  if b = 0#8 then some .direct else if b = 1#8 then some .overlay else if b = 2#8 then some .locked else none

/-- A data mark kind's code (R188). -/
def DataMark.code : DataMark → Byte
  | .normal => 0#8
  | .deleted => 1#8

/-- The data mark kind of a code, if it is one of the listed values (R188). -/
def DataMark.ofCode (b : Byte) : Option DataMark :=
  if b = 0#8 then some .normal else if b = 1#8 then some .deleted else none

/-! ### Places (R188) -/

/-- A place's number. -/
def Place.index : Place → Nat
  | .p0 => 0
  | .p1 => 1

/-- The other place of a track. -/
def Place.other : Place → Place
  | .p0 => .p1
  | .p1 => .p0

/-- The first block of place 0 of a track, from its area's base and the head count its area counts with (R188). -/
def trackBlock (base heads : Nat) (k : Key) : Nat :=
  base + (k.cylinder * heads + k.head) * 2 * Config.placeBlocks

/-- The first block of a place of the track whose place 0 begins at `base0` (R188). -/
def placeBlock (base0 : Nat) (p : Place) : Nat := base0 + p.index * Config.placeBlocks

/-! ### Volume header (R187, R148) -/

/-- Whether a scratch area lies above block 15 and within the capacity (R148). -/
def scratchFits (base capacity : Nat) : Bool :=
  decide (15 < base) && decide (base + Config.scratchBlocks ≤ capacity)

/-- The scratch bases of a valid volume header (R148, R187). -/
def parseHeader (capacity : Nat) (b : List Byte) : Option (Nat × Nat) :=
  let sa := le32At b 23
  let sb := le32At b 27
  if checkPasses b 31 && byteAt b 0 == 1#8 && le32At b 17 == 2 && le16At b 21 == 100
      && scratchFits sa capacity && scratchFits sb capacity
      && (decide (sa + Config.scratchBlocks ≤ sb) || decide (sb + Config.scratchBlocks ≤ sa))
  then some (sa, sb)
  else none

/-! ### Catalogue (R150, R187) -/

/-- The entry of 64 bytes, if it is valid (R150). -/
def parseEntry (capacity : Nat) (b : List Byte) : Option CatalogueEntry :=
  if byteAt b 0 == 1#8 && checkPasses b 60 then
    match Rpm.ofValue (le16At b 11), CellRate.ofKcells (le16At b 13), Encoding.ofCode (byteAt b 15),
        Policy.ofCode (byteAt b 16) with
    | some rpm, some rate, some enc, some pol =>
      let cyls := (byteAt b 9).toNat
      let heads := (byteAt b 10).toNat
      let base := le32At b 17
      if (cyls = 40 ∨ cyls = 80 ∨ cyls = 82 ∨ cyls = 84) ∧ (heads = 1 ∨ heads = 2) ∧ 15 < base
          ∧ base + cyls * heads * 2 * Config.placeBlocks ≤ capacity
      then some
        { cylinders := cyls, heads := heads, rpm := rpm, rate := rate, encoding := enc, policy := pol, base := base }
      else none
    | _, _, _, _ => none
  else none

/-- The hundred entries of the catalogue's bytes (R150). -/
def parseCatalogue (capacity : Nat) (b : List Byte) : Vector (Option CatalogueEntry) 100 :=
  Vector.ofFn fun i => parseEntry capacity ((b.drop (i.val * 64)).take 64)

/-! ### Volume state block (R187, R151) -/

/-- A last slot as stored: 100 to FE hex is read as none (R187). -/
def parseLastSlot (b : Byte) : Option Nat := if b.toNat < 100 then some b.toNat else none

/-- The volume state block's record, if its check passes; a state byte of neither 0 nor 1 is read as OPEN (R187). -/
def parseVolumeState (b : List Byte) : Option VolumeRecord :=
  if checkPasses b 7 then
    some { state := if byteAt b 0 = 0#8 then .clean else .open, slotA := parseLastSlot (byteAt b 1)
           slotB := parseLastSlot (byteAt b 2), count := BitVec.ofNat 32 (le32At b 3) }
  else none

/-- A last slot's stored byte (R187). -/
def lastSlotByte : Option Nat → Byte
  | none => 0xFF#8
  | some n => BitVec.ofNat 8 n

/-- The volume state block as written (R187). -/
def volumeStateBlock (r : VolumeRecord) : List Byte :=
  let head := (match r.state with | .clean => 0#8 | .open => 1#8)
    :: lastSlotByte r.slotA :: lastSlotByte r.slotB :: le32 r.count.toNat
  padTo Config.blockBytes (head ++ checkBytes head)

/-! ### Settings record (R190) -/

/-- A field judged on its own: its value if it is in range, else its default; and whether it was in range. -/
def inRange {α : Type} (v : Option α) (dflt : α) : α × Bool :=
  match v with
  | some x => (x, true)
  | none => (dflt, false)

/-- A number within a range. -/
def within (n lo hi : Nat) : Option Nat := if lo ≤ n ∧ n ≤ hi then some n else none

/-- A select line number. -/
def selectOf (n : Nat) : Option (Fin 4) := if h : n < 4 then some ⟨n, h⟩ else none

/-- Drive B's select line setting; 4 is OFF (R190). -/
def selectBOf (n : Nat) : Option (Option (Fin 4)) :=
  if n = 4 then some none else (selectOf n).map some

/-- A motor source setting (R190). -/
def motorOf (n : Nat) : Option MotorSource :=
  if n = 0 then some .mot0 else if n = 1 then some .mot1 else if n = 2 then some .select else none

/-- An OFF or ON setting (R190). -/
def switchOf (n : Nat) : Option Bool := if n = 0 then some false else if n = 1 then some true else none

/-- The LINE34 role setting (R190). -/
def roleOf (n : Nat) : Option Line34Role := (switchOf n).map fun b => if b then .diskchg else .ready

/-- The blink rate setting (R190). -/
def blinkOf (n : Nat) : Option BlinkRate := (switchOf n).map fun b => if b then .fast else .slow

/-- The settings of a record whose check passes, and whether every field was in range (R190). Drive B's line equal to
drive A's is OFF. Urgent-off is judged against the urgent-on in force. -/
def parseSettingsFields (b : List Byte) : Settings × Bool :=
  let n := fun i => (byteAt b i).toNat
  let d := Settings.defaults
  let selA := inRange (selectOf (n 0)) d.selA
  let selB := inRange (selectBOf (n 1)) d.selB
  let motA := inRange (motorOf (n 2)) d.motA
  let motB := inRange (motorOf (n 3)) d.motB
  let role := inRange (roleOf (n 4)) d.line34
  let settle := inRange (within (n 5) 2 60) d.settleMs
  let spin := inRange (within (le16At b 6) 0 1000) d.spinUpMs
  let hold := inRange (within (le16At b 8) 0 1500) d.holdLimitMs
  let swap := inRange (within (le16At b 10) 200 5000) d.swapMs
  let idle := inRange (within (n 12) 0 60) d.idleSecs
  let on := inRange (within (n 13) 2 16) d.urgentOn
  let off := inRange (within (n 14) 0 (on.1 - 1)) (if 4 < on.1 then 4 else on.1 - 1)
  let pre := inRange (switchOf (n 15)) d.prefetch
  let res := inRange (switchOf (n 16)) d.restoreMounts
  let blink := inRange (blinkOf (n 17)) d.blink
  let bits := BitVec.ofNat 16 (le16At b 18)
  ({ selA := selA.1, selB := if selB.1 = some selA.1 then none else selB.1, motA := motA.1, motB := motB.1
     line34 := role.1, settleMs := settle.1, spinUpMs := spin.1, holdLimitMs := hold.1, swapMs := swap.1
     idleSecs := idle.1, urgentOn := on.1, urgentOff := off.1, prefetch := pre.1, restoreMounts := res.1
     blink := blink.1, enables := Vector.ofFn fun i => bits.getLsbD i.val },
   selA.2 && selB.2 && motA.2 && motB.2 && role.2 && settle.2 && spin.2 && hold.2 && swap.2 && idle.2 && on.2 && off.2
     && pre.2 && res.2 && blink.2)

/-- The settings of block 1 and whether SETTINGS_BAD stays unlatched (R149, R190). -/
def parseSettings (b : List Byte) : Settings × Bool :=
  if checkPasses b 20 then parseSettingsFields b else (Settings.defaults, false)

/-! ### Track records on the card (R188, R21) -/

/-- What the first block of a place is (R108, R189). -/
inductive PlaceClass where
  | blank
  | damaged
  | valid (generation : Nat)
  deriving DecidableEq, Repr

/-- The class of a place's first block (R108). -/
def placeClass (b : List Byte) : PlaceClass :=
  if byteAt b 0 = 0x4D#8 ∧ byteAt b 1 = 0x50#8 then
    if checkPasses b 28 ∧ le32At b 6 ≠ 0 ∧ byteAt b 2 = 1#8 then .valid (le32At b 6) else .damaged
  else .blank

/-- The record length a header states (R188). -/
def recordLength (b : List Byte) : Nat := le32At b 24

/-- The serialised length of a record; an EMPTY one is never written (R21). -/
def Record.serialisedLength : Record → Nat
  | .empty => 0
  | .sectored t =>
    Config.blockBytes + 8 * t.sectors.length
      + (t.sectors.map fun x => match x.data with | some bs => bs.length | none => 0).sum + 4
  | .raw t => Config.blockBytes + (t.cells + 7) / 8 + 4

/-- A bit as a number. -/
def bitNat (b : Bool) : Nat := if b then 1 else 0

/-- The eight bytes of a sector entry (R188). -/
def entryBytes (x : SectorEntry) : List Byte :=
  [x.c, x.h, x.r, x.n, x.mark.code,
   BitVec.ofNat 8 (bitNat x.idCrcBad + 2 * bitNat x.dataCrcBad + 4 * bitNat x.data.isNone), 0#8, 0#8]

/-- Cells packed eight to a byte, the first in the most significant bit, the last byte's unused bits 0 (R188). -/
def packCells : List Bool → List Byte
  | a :: b :: c :: d :: e :: f :: g :: h :: rest => bitsByte8 a b c d e f g h :: packCells rest
  | [] => []
  | [a] => [bitsByte8 a false false false false false false false]
  | [a, b] => [bitsByte8 a b false false false false false false]
  | [a, b, c] => [bitsByte8 a b c false false false false false]
  | [a, b, c, d] => [bitsByte8 a b c d false false false false]
  | [a, b, c, d, e] => [bitsByte8 a b c d e false false false]
  | [a, b, c, d, e, f] => [bitsByte8 a b c d e f false false]
  | [a, b, c, d, e, f, g] => [bitsByte8 a b c d e f g false]
where
  /-- Eight bits as a byte, the first most significant. -/
  bitsByte8 (a b c d e f g h : Bool) : Byte :=
    BitVec.ofNat 8 (128 * bitNat a + 64 * bitNat b + 32 * bitNat c + 16 * bitNat d + 8 * bitNat e + 4 * bitNat f
      + 2 * bitNat g + bitNat h)

/-- The bytes of a record between its header block and its record check (R188). -/
def Record.body : Record → List Byte
  | .empty => []
  | .sectored t => t.sectors.flatMap entryBytes ++ t.sectors.flatMap fun x => x.data.getD []
  | .raw t => packCells t.stream

/-- Bytes 10 to 27 of a record's header (R188). -/
def Record.headerTail (r : Record) : List Byte :=
  let len := le32 r.serialisedLength
  match r with
  | .empty => []
  | .sectored t =>
    [t.encoding.code, if t.gap1.isSome then 1#8 else 0#8] ++ le16 t.rate.kcells ++ le32 t.cells
      ++ [BitVec.ofNat 8 t.gap4a, BitVec.ofNat 8 (t.gap1.getD 0), BitVec.ofNat 8 t.gap2, BitVec.ofNat 8 t.gap3,
          BitVec.ofNat 8 t.sectors.length, 0#8] ++ len
  | .raw t =>
    [t.encoding.code, 0#8] ++ le16 t.rate.kcells ++ le32 t.cells ++ [0#8, 0#8, 0#8, 0#8, 0#8, 0#8] ++ len

/-- A record's kind code (R188). -/
def Record.kindCode : Record → Byte
  | .empty => 0#8
  | .sectored _ => 1#8
  | .raw _ => 2#8

/-- A record serialised for a track and a generation (R188, R132). -/
def serialise (r : Record) (cylinder head generation : Nat) : List Byte :=
  let fields := [0x4D#8, 0x50#8, 1#8, r.kindCode, BitVec.ofNat 8 cylinder, BitVec.ofNat 8 head] ++ le32 generation
    ++ r.headerTail
  let bs := padTo Config.blockBytes (fields ++ checkBytes fields) ++ r.body
  bs ++ checkBytes bs

/-- A serialised record with its track and generation filled in and its checks computed anew (R129, R132). -/
def fillTarget (bs : List Byte) (cylinder head generation : Nat) : List Byte :=
  let fields := bs.take 4 ++ [BitVec.ofNat 8 cylinder, BitVec.ofNat 8 head] ++ le32 generation
    ++ (bs.drop 10).take 18
  let whole := padTo Config.blockBytes (fields ++ checkBytes fields)
    ++ (bs.drop Config.blockBytes).take (bs.length - (Config.blockBytes + 4))
  whole ++ checkBytes whole

/-- A serialised record in whole blocks, the rest of the last one zero (R133). -/
def inBlocks (bs : List Byte) : List Byte := padTo (blocksFor bs.length * Config.blockBytes) bs

/-- The sector entries of a SECTORED record and its data, entry after entry, if every field is in range (R188, R19).
`data` are the bytes left for data fields; the bytes left over come back. -/
def parseSectors : Nat → List Byte → List Byte → Option (List SectorEntry × List Byte)
  | 0, _, data => some ([], data)
  | n + 1, entries, data =>
    let flags := byteAt entries 5
    let size := (byteAt entries 3).toNat
    match DataMark.ofCode (byteAt entries 4) with
    | none => none
    | some mark =>
      if size ≤ Config.maxSizeCode then
        let absent := flags.getLsbD 2
        let len := if absent then 0 else dataLength size
        if data.length < len then none
        else
          (parseSectors n (entries.drop 8) (data.drop len)).map fun p =>
            ({ c := byteAt entries 0, h := byteAt entries 1, r := byteAt entries 2, n := byteAt entries 3, mark := mark
               idCrcBad := flags.getLsbD 0, dataCrcBad := flags.getLsbD 1
               data := if absent then none else some (data.take len) } :: p.1, p.2)
      else none

/-- gap1 as stored: 0 while the index mark is absent (R188, R19); the outer none is out of range. An index mark byte of
neither 0 nor 1 is taken as out of range, which is the model's choice (log 32). -/
def parseGap1 (mark gap : Byte) : Option (Option Nat) :=
  if mark = 0#8 then (if gap = 0#8 then some none else none)
  else if mark = 1#8 then (if gap.toNat ≤ 100 then some (some gap.toNat) else none)
  else none

/-- The cells of packed bytes, first in the most significant bit (R188). -/
def unpackCells (bs : List Byte) (n : Nat) : List Bool := (bs.flatMap byteBits).take n

/-- The SECTORED record of `bs`, if it is well-formed (R19). -/
def parseSectored (bs : List Byte) (encoding : Encoding) (rate : CellRate) (cells : Nat) : Option Record :=
  let n := fun i => (byteAt bs i).toNat
  let count := n 22
  match parseGap1 (byteAt bs 11) (byteAt bs 19) with
  | none => none
  | some gap1 =>
    if n 18 ≤ 200 ∧ 1 ≤ n 20 ∧ n 20 ≤ 60 ∧ 1 ≤ n 21 ∧ count ≤ Config.maxSectors
        ∧ Config.blockBytes + 8 * count + 4 ≤ bs.length then
      let body := (bs.drop Config.blockBytes).take (bs.length - (Config.blockBytes + 4))
      match parseSectors count body (body.drop (8 * count)) with
      | some (sectors, []) =>
        let t : Sectored :=
          { encoding := encoding, rate := rate, cells := cells, gap4a := n 18, gap1 := gap1, gap2 := n 20, gap3 := n 21
            sectors := sectors }
        if fitsRevolution t then some (.sectored t) else none
      | _ => none
    else none

/-- The RAW record of `bs`, if it is well-formed (R19). -/
def parseRaw (bs : List Byte) (encoding : Encoding) (rate : CellRate) (cells : Nat) : Option Record :=
  if bs.length = Config.blockBytes + (cells + 7) / 8 + 4 then
    some (.raw { encoding := encoding, rate := rate, cells := cells
                 stream := unpackCells ((bs.drop Config.blockBytes).take ((cells + 7) / 8)) cells })
  else none

/-- The record of `bs`, the bytes of a record whose checks pass, for a key of an image; none if it is malformed under
R19. `bs` has the length its header states. -/
def parseRecord (e : CatalogueEntry) (k : Key) (bs : List Byte) : Option Record :=
  match Encoding.ofCode (byteAt bs 10), CellRate.ofKcells (le16At bs 12) with
  | some enc, some rate =>
    if le32At bs 14 = cellsPerRev rate e.rpm ∧ (byteAt bs 4).toNat = k.cylinder ∧ (byteAt bs 5).toNat = k.head
        ∧ bs.length ≤ Config.maxRecordBytes then
      if byteAt bs 3 = 1#8 then parseSectored bs enc rate (le32At bs 14)
      else if byteAt bs 3 = 2#8 then parseRaw bs enc rate (le32At bs 14)
      else none
    else none
  | _, _ => none

end Sys2Proof.Machine
end

