-- ==== Sys2Proof/Machine/Merge.lean ====
section
/-! DEFINITION. What a capture makes of a track record: the classes of R75, data-field writes (R78, R79), overlays
(R80), full-track writes and their parse (R76, R82 to R86). -/

namespace Sys2Proof.Machine

/-! ### Overlay (R80) -/

/-- Cells laid over a ring from a position, past its last position on from 0 (R80). -/
def layOver (ring : List Bool) (pos : Nat) (laid : List Bool) : List Bool :=
  let turned := ring.drop pos ++ ring.take pos
  let new := laid.take ring.length ++ turned.drop laid.length
  new.drop (ring.length - pos) ++ new.take (ring.length - pos)

/-- The cell rate a record is served at; an EMPTY one takes the entry's default (R2). -/
def Record.rateIn (e : CatalogueEntry) : Record → CellRate
  | .empty => e.rate
  | .sectored t => t.rate
  | .raw t => t.rate

/-- The cells per revolution a record is served at (R2). -/
def Record.cellsIn (e : CatalogueEntry) : Record → Nat
  | .empty => cellsPerRev e.rate e.rpm
  | .sectored t => t.cells
  | .raw t => t.cells

/-- The encoding of a record; the entry's default for an EMPTY one (R2). -/
def Record.encodingIn (e : CatalogueEntry) : Record → Encoding
  | .empty => e.encoding
  | .sectored t => t.encoding
  | .raw t => t.encoding

/-- A record as the cells of one revolution (R58, R80). -/
def Record.cellsOf (e : CatalogueEntry) : Record → List Bool
  | .empty => blankCells e.encoding (cellsPerRev e.rate e.rpm)
  | .sectored t => renderCells t
  | .raw t => t.stream

/-- The overlay of a capture on a target record (R80). -/
def overlayRecord (e : CatalogueEntry) (target : Record) (c : Capture) : Raw :=
  { encoding := target.encodingIn e, rate := target.rateIn e, cells := target.cellsIn e
    stream := layOver (target.cellsOf e) c.firstPos c.stream }

/-! ### Data-field writes (R78, R79) -/

/-- Whether a field is a data field (R78). -/
def Field.isData (f : Field) : Bool := decide (f.kind = .data) || decide (f.kind = .deletedData)

/-- The conditions of R78 on one sector, its row and the capture's one field. -/
def fieldFits (t : Sectored) (x : SectorEntry) (row : LayoutRow) (r : Released) (f : Field) : Bool :=
  decide (row.idEnd ≤ r.capture.start) && decide (r.capture.start < row.dataMarkStart)
    && f.isData
    && decide (dataLength x.n.toNat + 2 ≤ f.bytes.length)
    && !r.indexCrossed && decide (r.capture.start ≤ r.endPos)
    && decide (r.endPos ≤ row.nextIdSyncStart)
    && (x.data.isSome || decide (row.dataEnd ≤ 16 * bytesPerRev t.cells))

/-- The sector a data-field write changes, as its place in the list (R78). -/
def findSector (t : Sectored) (r : Released) (f : Field) : Nat → List SectorEntry → List LayoutRow → Option Nat
  | k, x :: xs, row :: rows => if fieldFits t x row r f then some k else findSector t r f (k + 1) xs rows
  | _, _, _ => none

/-- The data mark a captured field gives (R79, R82). -/
def FieldKind.dataMark : FieldKind → DataMark
  | .deletedData => .deleted
  | _ => .normal

/-- A sector's entry after a data-field write (R79). -/
def writeSector (e : Encoding) (f : Field) (x : SectorEntry) : SectorEntry :=
  let len := dataLength x.n.toNat
  let bs := f.bytes.take len
  { x with
    data := some bs
    mark := f.kind.dataMark
    dataCrcBad := !crcCorrect e f.kind bs ((f.bytes.drop len).take 2) }

/-- A data-field write on a SECTORED record with its layout table, if R78 holds (R79). A capture decoded in another
encoding than the record's is none (R77, log 19). -/
def dataFieldWrite (t : Sectored) (rows : List LayoutRow) (r : Released) : Option Sectored :=
  match r.capture.fields with
  | [f] =>
    if r.capture.encoding = t.encoding then
      (findSector t r f 0 t.sectors rows).map fun k =>
        { t with sectors := t.sectors.modify k (writeSector t.encoding f) }
    else none
  | _ => none

/-! ### Full-track writes (R76, R82 to R86) -/

/-- The full-track test (R76). -/
def isFullTrack (r : Released) : Bool :=
  decide (r.capture.start * 64 < r.capture.cells) && decide (1 ≤ r.capture.crossings)

/-- A field placed by its mark position among fields in that order. -/
def insertField (f : Field) : List Field → List Field
  | [] => [f]
  | g :: gs => if f.markPos < g.markPos then f :: g :: gs else g :: insertField f gs

/-- Fields in order of mark position from index (R82). -/
def sortFields (fs : List Field) : List Field := fs.foldl (fun acc f => insertField f acc) []

/-- An ID field and the data field after it, all the way (R82). -/
def parsePairs : List Field → Option (List (Field × Field))
  | [] => some []
  | [_] => none
  | i :: d :: rest =>
    if i.kind = .id ∧ d.isData then (parsePairs rest).map ((i, d) :: ·) else none

/-- The parse of R82: the index mark field if the list opens with one, and the sectors. -/
def parseFields (fs : List Field) : Option (Option Field × List (Field × Field)) :=
  match sortFields fs with
  | [] => some (none, [])
  | f :: rest =>
    if f.kind = .indexMark then (parsePairs rest).map (some f, ·) else (parsePairs (f :: rest)).map (none, ·)

/-- The size code a parsed ID states (R82). -/
def idSize (i : Field) : Nat := (byteAt i.bytes 3).toNat

/-- The data length a parsed ID states (R82). -/
def idDataLength (i : Field) : Nat := dataLength (idSize i)

/-- The sector a parsed pair gives (R82). -/
def pairSector (p : Field × Field) : SectorEntry :=
  { c := byteAt p.1.bytes 0, h := byteAt p.1.bytes 1, r := byteAt p.1.bytes 2, n := byteAt p.1.bytes 3
    mark := p.2.kind.dataMark, idCrcBad := false, dataCrcBad := false
    data := some (p.2.bytes.take (idDataLength p.1)) }

/-- Conditions 2 and 3 of R83 on one sector; a size code above 6 needs more bytes than a revolution holds and makes
no sector (R19). -/
def pairGood (e : Encoding) (p : Field × Field) : Bool :=
  p.1.idGood && decide (idSize p.1 ≤ Config.maxSizeCode)
    && decide (idDataLength p.1 + 2 ≤ p.2.bytes.length)
    && crcCorrect e p.2.kind (p.2.bytes.take (idDataLength p.1)) ((p.2.bytes.drop (idDataLength p.1)).take 2)

/-- A measure of R84: the distance forward around the ring in whole bytes, less the bytes between. -/
def measure (cells start stop less : Nat) : Int := (((stop + cells - start) % cells / 16 : Nat) : Int) - (less : Int)

/-- gap2 of each sector (R84). -/
def gap2s (e : Encoding) (cells : Nat) (ps : List (Field × Field)) : List Int :=
  ps.map fun p => measure cells p.1.markPos p.2.markPos (syncLength e + markLength e + 4 + 2)

/-- gap3 of every sector but the last (R84). -/
def gap3s (e : Encoding) (cells : Nat) : List (Field × Field) → List Int
  | p :: q :: rest =>
    measure cells p.2.markPos q.1.markPos (syncLength e + markLength e + idDataLength p.1 + 2)
      :: gap3s e cells (q :: rest)
  | _ => []

/-- Whether the largest of the measures exceeds the smallest by 2 or less (R83). -/
def spreadSmall (gs : List Int) : Bool := gs.all fun a => gs.all fun b => decide (a ≤ b + 2)

/-- gap3 of a track of one sector: the whole bytes from its data end to the revolution end, at most 255 (R85,
log 21). -/
def oneSectorGap3 (e : Encoding) (cells : Nat) (p : Field × Field) : Int :=
  min 255 ((((cells : Nat) : Int) - ((p.2.markPos + (markLength e + idDataLength p.1 + 2) * 16 : Nat) : Int)) / 16)

/-- Whether a measured gap lies in a range of R4. -/
def gapIn (g : Int) (lo hi : Nat) : Bool := decide ((lo : Int) ≤ g) && decide (g ≤ (hi : Int))

/-- The record a parsed track gives, if every condition of R83 holds (R84, R85). Every measured gap lies in its range of
R4, those of later sectors too (R20, R84). -/
def promote (c : Capture) (mark : Option Field) (ps : List (Field × Field)) : Option Sectored :=
  match ps with
  | [] => none
  | p :: rest =>
    let e := c.encoding
    let firstMark := match mark with | some m => m.markPos | none => p.1.markPos
    let g4 := measure c.cells 0 firstMark (syncLength e)
    let g1 := mark.map fun m => measure c.cells m.markPos p.1.markPos (syncLength e + markLength e)
    let g2s := gap2s e c.cells ps
    let g3s := gap3s e c.cells ps
    let g2 := g2s.headD 0
    let g3 := if rest.isEmpty then oneSectorGap3 e c.cells p else g3s.headD 0
    let t : Sectored :=
      { encoding := e, rate := c.rate, cells := c.cells, gap4a := g4.toNat, gap1 := g1.map Int.toNat
        gap2 := g2.toNat, gap3 := g3.toNat, sectors := ps.map pairSector }
    if ps.all (pairGood e) && spreadSmall g2s && spreadSmall g3s && decide (ps.length ≤ Config.maxSectors)
        && gapIn g4 0 200 && (g1.all fun g => gapIn g 0 100)
        && (g2s.all fun g => gapIn g 1 60) && (g3s.all fun g => gapIn g 1 255) && gapIn g3 1 255 && fitsRevolution t
    then some t
    else none

/-- The SECTORED record of a full-track write, if its parse is promoted (R82, R83). -/
def promotion (c : Capture) : Option Sectored :=
  match parseFields c.fields with
  | none => none
  | some (mark, ps) => promote c mark ps

/-- The cells under a full-track write that is kept as cells: the target's where its rate is the capture frame's,
else a blank revolution in the capture frame (R86). -/
def oldCells (c : Capture) : Option Record → List Bool
  | some (.sectored t) => if t.rate = c.rate then renderCells t else blankCells c.encoding c.cells
  | some (.raw t) => if t.rate = c.rate then t.stream else blankCells c.encoding c.cells
  | _ => blankCells c.encoding c.cells

/-- A full-track write kept as cells (R86). -/
def fullTrackRaw (c : Capture) (target : Option Record) : Raw :=
  { encoding := c.encoding, rate := c.rate, cells := c.cells
    stream := layOver (oldCells c target) c.firstPos c.stream }

/-! ### Classification (R75) -/

/-- What a merge does: a new record, with or without DEMOTED, or a discard (R75). -/
inductive MergeResult where
  | record (r : Record) (demoted : Bool)
  | discard
  deriving DecidableEq, Repr

/-- The classification of R75. `target` is none for a FAILED slot. -/
def classify (e : CatalogueEntry) (target : Option Record) (rows : List LayoutRow) (r : Released) : MergeResult :=
  if isFullTrack r then
    match promotion r.capture with
    | some t => .record (.sectored t) false
    | none => .record (.raw (fullTrackRaw r.capture target)) false
  else
    match target with
    | none => .discard
    | some rec =>
      if rec.rateIn e ≠ r.capture.rate then .discard
      else
        match rec with
        | .sectored t =>
          match dataFieldWrite t rows r with
          | some t' => .record (.sectored t') false
          | none => .record (.raw (overlayRecord e rec r.capture)) true
        | .empty => .record (.raw (overlayRecord e rec r.capture)) true
        | .raw _ => .record (.raw (overlayRecord e rec r.capture)) false

end Sys2Proof.Machine
end

