-- ==== Sys2Proof/Machine/Operands.lean ====
section
/-! DEFINITION. What is read off State: selection, motor demand, served key, residency, pinned keys, evictable slots,
drain mode, urgency, the standing requests and the arbiter's grant. None of it is stored. -/

namespace Sys2Proof.Machine

/-! ### Drives and lines (chapter 2) -/

/-- The drive other than this one. -/
def otherDrive : Drive → Drive
  | .a => .b
  | .b => .a

/-- A drive's record (R28). -/
def State.drive (s : State) : Drive → DriveUnit
  | .a => s.driveA
  | .b => s.driveB

/-- The level of a select line. -/
def Lines.sel (l : Lines) (n : Fin 4) : Bool :=
  if n = 0 then l.sel0 else if n = 1 then l.sel1 else if n = 2 then l.sel2 else l.sel3

/-- A drive's configured select line; drive B's is OFF when it equals drive A's (R24). -/
def Settings.selectLine (t : Settings) : Drive → Option (Fin 4)
  | .a => some t.selA
  | .b => if t.selB = some t.selA then none else t.selB

/-- Whether drive B's select line is OFF (R24). -/
def State.driveBOff (s : State) : Bool := (s.settings.selectLine .b).isNone

/-- Whether a drive's configured select line is asserted. -/
def State.lineAsserted (s : State) (d : Drive) : Bool :=
  match s.settings.selectLine d with
  | none => false
  | some n => s.lines.sel n

/-- Cable fault (c): both configured select lines are asserted (R25). -/
def State.faultC (s : State) : Bool := s.lineAsserted .a && s.lineAsserted .b

/-- The selected drive (R25). -/
def State.selected (s : State) : Option Drive :=
  if s.lineAsserted .a then (if s.lineAsserted .b then none else some .a)
  else if s.lineAsserted .b then some .b else none

/-- A drive's motor source (R26). -/
def Settings.motorSource (t : Settings) : Drive → MotorSource
  | .a => t.motA
  | .b => t.motB

/-- A drive's motor demand (R26). -/
def State.motorDemand (s : State) (d : Drive) : Bool :=
  match s.settings.motorSource d with
  | .mot0 => s.lines.mot0
  | .mot1 => s.lines.mot1
  | .select => s.lineAsserted d

/-- Cable activity that lasts: a configured select line or a motor line that a drive names is asserted (R43). -/
def State.activeLine (s : State) : Bool :=
  s.lineAsserted .a || s.lineAsserted .b || s.motorDemand .a || s.motorDemand .b

/-- The head SIDE chooses (R27). -/
def State.sideHead (s : State) : Nat := if s.lines.side then 1 else 0

/-- The key a drive presents when it is selected (R27). -/
def State.keyOf (s : State) (d : Drive) : Option Key :=
  (s.drive d).mounted.map fun i => { image := i, cylinder := (s.drive d).cylinder, head := s.sideHead }

/-- The served key (R27). -/
def State.servedKey (s : State) : Option Key := s.selected.bind s.keyOf

/-- Whether a drive is PRESENT. -/
def DriveUnit.isPresent (u : DriveUnit) : Bool := decide (u.media = .present)

/-- Whether a drive is AT_SPEED. -/
def DriveUnit.isAtSpeed (u : DriveUnit) : Bool := decide (u.spindle = .atSpeed)

/-- Whether a drive is SETTLED. -/
def DriveUnit.isSettled (u : DriveUnit) : Bool := decide (u.motion = .settled)

/-- Whether the power state is EMERGENCY or SPENT. -/
def State.isFailing (s : State) : Bool := decide (s.power.state = .emergency) || decide (s.power.state = .spent)

/-! ### The catalogue (chapter 7) -/

/-- A slot's valid catalogue entry (R150). -/
def State.entry (s : State) (image : Nat) : Option CatalogueEntry := s.volume.catalogue[image]?.join

/-- Whether a key is OUTSIDE its image (R60). A key of an image with no valid entry is treated so. -/
def State.isOutside (s : State) (k : Key) : Bool :=
  match s.entry k.image with
  | none => true
  | some e => decide (e.cylinders ≤ k.cylinder) || decide (e.heads ≤ k.head)

/-- The drive an image is mounted in (R154). -/
def State.mountDrive (s : State) (image : Nat) : Option Drive :=
  if s.driveA.mounted = some image then some .a else if s.driveB.mounted = some image then some .b else none

/-- The keys of a cylinder of a mounted image: head 0, and head 1 if the image has two (R34, R95). -/
def State.cylinderKeys (s : State) (image cylinder : Nat) : List Key :=
  let k0 : Key := { image := image, cylinder := cylinder, head := 0 }
  match s.entry image with
  | none => [k0]
  | some e => if e.heads = 2 then [k0, { k0 with head := 1 }] else [k0]

/-- The keys of a drive's head cylinder, none with no image mounted (R95). -/
def State.driveKeys (s : State) (d : Drive) : List Key :=
  match (s.drive d).mounted with
  | none => []
  | some i => s.cylinderKeys i (s.drive d).cylinder

/-- Whether a key is pinned (R95). -/
def State.isPinned (s : State) (k : Key) : Bool := (s.driveKeys .a).contains k || (s.driveKeys .b).contains k

/-- WPROT of a drive (R38). -/
def State.wprot (s : State) (d : Drive) : Bool :=
  (match (s.drive d).mounted with
    | none => true
    | some i => match s.entry i with
      | none => false
      | some e => decide (e.policy = .locked))
    || (match (s.drive d).media with | .swap _ => true | _ => false)
    || s.card.writeLocked || s.card.writeFault || s.panel.lock || s.isFailing

/-! ### Captures (chapter 4) -/

/-- A capture buffer (R64). -/
def State.buffer (s : State) : BufferId → CaptureBuffer
  | .one => s.capture.buf1
  | .two => s.capture.buf2

/-- The other capture buffer. -/
def otherBuffer : BufferId → BufferId
  | .one => .two
  | .two => .one

/-- The capture of a buffer that is WAITING_MERGE or MERGING. -/
def CaptureBuffer.released? : CaptureBuffer → Option Released
  | .waitingMerge r => some r
  | .merging r => some r
  | _ => none

/-- Whether a buffer that is WAITING_MERGE or MERGING holds a key (R73). -/
def CaptureBuffer.protects (b : CaptureBuffer) (k : Key) : Bool :=
  match b.released? with
  | some r => decide (r.capture.key = k)
  | none => false

/-- The lowest-numbered EMPTY buffer (R65). -/
def State.emptyBuffer (s : State) : Option BufferId :=
  if s.capture.buf1 = .empty then some .one else if s.capture.buf2 = .empty then some .two else none

/-! ### The track cache (chapter 5) -/

/-- The sixteen slot numbers, lowest first. -/
def slotIds : List (Fin 16) := [0, 1, 2, 3, 4, 5, 6, 7, 8, 9, 10, 11, 12, 13, 14, 15]

/-- A slot record (R91). -/
def State.slot (s : State) (i : Fin 16) : Slot := s.cache.slots[i]

/-- The states in which a slot's key is resident (R94). -/
def SlotState.isResident : SlotState → Bool
  | .clean | .dirty | .writing | .held | .failed => true
  | _ => false

/-- The states in which a slot holds a record (R92). -/
def SlotState.holdsRecord : SlotState → Bool
  | .clean | .dirty | .writing | .held => true
  | _ => false

/-- The slot that holds a key (R92). -/
def State.findSlot (s : State) (k : Key) : Option (Fin 16) := slotIds.find? fun i => decide ((s.slot i).key = some k)

/-- The slot in which a key is resident (R94). -/
def State.residentSlot (s : State) (k : Key) : Option (Fin 16) :=
  (s.findSlot k).filter fun i => (s.slot i).state.isResident

/-- Whether a key is resident (R94). -/
def State.isKeyResident (s : State) (k : Key) : Bool := (s.residentSlot k).isSome

/-- Whether a key is cached: resident, or its slot LOADING (R94). -/
def State.isCached (s : State) (k : Key) : Bool :=
  match s.findSlot k with
  | none => false
  | some i => (s.slot i).state.isResident || decide ((s.slot i).state = .loading)

/-- The record the synthesizer has for a key: that of a slot that is CLEAN, DIRTY, WRITING or HELD (R46, R58). -/
def State.recordOf (s : State) (k : Key) : Option Record :=
  match s.findSlot k with
  | none => none
  | some i => if (s.slot i).state.holdsRecord then (s.slot i).record else none

/-- Whether a slot is evictable (R97). -/
def State.isEvictable (s : State) (i : Fin 16) : Bool :=
  (decide ((s.slot i).state = .clean) || decide ((s.slot i).state = .failed))
    && match (s.slot i).key with
      | none => false
      | some k => !s.isPinned k && !s.capture.buf1.protects k && !s.capture.buf2.protects k

/-- The lowest-numbered FREE slot (R105). -/
def State.freeSlot (s : State) : Option (Fin 16) := slotIds.find? fun i => decide ((s.slot i).state = .free)

/-- The eviction victim: the least recent evictable slot (R97). -/
def State.victim (s : State) : Option (Fin 16) := s.cache.recency.reverse.find? s.isEvictable

/-- Whether a FREE or an evictable slot exists (R104). -/
def State.hasRoom (s : State) : Bool := s.freeSlot.isSome || s.victim.isSome

/-- The number of FREE slots plus evictable slots (R102). -/
def State.roomCount (s : State) : Nat :=
  (slotIds.filter fun i => decide ((s.slot i).state = .free) || s.isEvictable i).length

/-- Whether a key stands in the load list (R98). -/
def State.isListed (s : State) (k : Key) : Bool := s.cache.loads.any fun x => decide (x.key = k)

/-- Whether the load list's head has slot-wait (R104). -/
def State.slotWait (s : State) : Bool :=
  match s.cache.loads with
  | [] => false
  | x :: _ => decide (x.kind = .demand) && !s.isCached x.key && !s.hasRoom

/-- The governing track the selected drive's served key gives, or none where it stays as it was (R46). -/
def State.governing (s : State) : Option (Nat × CellRate) :=
  match s.servedKey with
  | none => none
  | some k =>
    match s.entry k.image with
    | none => none
    | some e =>
      let r := (s.recordOf k).getD .empty
      some (r.cellsIn e, r.rateIn e)

/-- The served slot with its key while it is resident (R57). -/
def State.served (s : State) : Option (Fin 16 × Key) :=
  match s.servedKey with
  | none => none
  | some k => (s.residentSlot k).map fun i => (i, k)

/-- Whether the selected drive qualifies for a hold: PRESENT, AT_SPEED and SETTLED (R51, R54). -/
def DriveUnit.qualifies (u : DriveUnit) : Bool := u.isPresent && u.isAtSpeed && u.isSettled

/-- Whether a key may be held on a drive: not OUTSIDE, not resident, not in the drive's held-key set (R51, R53). -/
def State.canHold (s : State) (d : Drive) (k : Key) : Bool :=
  !s.isOutside k && !s.isKeyResident k && !(s.drive d).heldKeys.contains k

/-- The conditions under which the hold state is ARMED (R51). -/
def State.armable (s : State) : Bool :=
  match s.selected, s.servedKey with
  | some d, some k =>
    decide (s.settings.holdLimitMs ≠ 0) && (s.drive d).qualifies && s.canHold d k && !s.lines.wgate
  | _, _ => false

/-- Whether the rotation is held at index (R52). -/
def State.isHeld (s : State) : Bool :=
  match s.rotation.hold with
  | .held _ _ _ => true
  | _ => false

/-! ### Urgency, requests and grants (chapter 6) -/

/-- Whether some slot is WRITING (R124). -/
def State.anyWriting (s : State) : Bool := slotIds.any fun i => decide ((s.slot i).state = .writing)

/-- Whether some slot is DIRTY, WRITING or HELD, so that its removal loses writes (R146). -/
def State.anyUnwritten (s : State) : Bool :=
  slotIds.any fun i =>
    decide ((s.slot i).state = .dirty) || decide ((s.slot i).state = .writing) || decide ((s.slot i).state = .held)

/-- Whether a Power Unit job is draining, and so waits for the drain's end (R124). -/
def Job.isDraining : Job → Bool
  | .idle .draining | .emergency .draining | .restart .draining => true
  | _ => false

/-- Whether a Power Unit job waits for its closing volume state write (R167). -/
def Job.isClosing : Job → Bool
  | .idle .closing | .emergency .closing | .restart .closing => true
  | _ => false

/-- Whether a restart is in progress: the restart flag (R172). -/
def Job.isRestart : Job → Bool
  | .restart _ => true
  | _ => false

/-- Drain mode: on while a requester waits for its end (R124). -/
def State.drainMode (s : State) : Bool := s.power.job.isDraining || s.power.flsh

/-- Whether flushing is urgent (R123). -/
def State.isUrgent (s : State) : Bool := s.commit.urgent || s.slotWait || s.drainMode

/-- Whether a load is in flight. -/
def Holder.isLoader : Holder → Bool
  | .loader _ => true
  | _ => false

/-- Whether a flush is in flight. -/
def Holder.isFlusher : Holder → Bool
  | .flusher _ => true
  | _ => false

/-- Whether a volume state write is in flight. -/
def Holder.isVolumeWrite : Holder → Bool
  | .volumeWrite _ _ => true
  | _ => false

/-- The Loader's standing request (R104). -/
def State.loaderAsks (s : State) : Bool :=
  match s.cache.loads with
  | [] => false
  | x :: _ =>
    !s.card.holder.isLoader && decide (s.card.state = .ready) && !s.isFailing && (s.hasRoom || s.isCached x.key)

/-- Whether volume state writes cannot be made: the card is write-locked or in write fault (R163). -/
def State.writesBarred (s : State) : Bool := s.card.writeLocked || s.card.writeFault

/-- The Flusher's conditions but for the volume state (R127). -/
def State.flusherReady (s : State) : Bool :=
  !s.commit.queue.isEmpty && !s.card.holder.isFlusher && decide (s.card.state = .ready) && !s.card.writeFault
    && (decide (s.power.state = .run) || decide (s.power.state = .drain) || decide (s.power.state = .emergency))

/-- The state of the volume state record (R128, R162). -/
def State.volumeState (s : State) : Option VolumeState := s.volume.record.map VolumeRecord.state

/-- The Flusher's standing request (R127). -/
def State.flusherAsks (s : State) : Bool := s.flusherReady && decide (s.volumeState = some .open)

/-- Volume's standing request for a pending volume state write (R162, R163). -/
def State.volumeAsks (s : State) : Bool :=
  s.volume.pendingWrite.isSome && decide (s.card.state = .ready) && !s.writesBarred

/-- The requesters the arbiter chooses among (R126). -/
inductive Requester where
  | volume
  | flusher
  | loader
  deriving DecidableEq, Repr

/-- Whether the load list's head is of a kind. -/
def State.headIs (s : State) (k : LoadKind) : Bool :=
  match s.cache.loads with
  | [] => false
  | x :: _ => decide (x.kind = k)

/-- Whether the Loader's rows may be granted: not in EMERGENCY or SPENT, and not while the sleep request waits
(R126). -/
def State.loaderGrantable (s : State) : Bool := s.loaderAsks && !s.isFailing && decide (s.power.job ≠ .idleSleep)

/-- The arbiter's grant: the first row with a standing request, at an idle card (R126). A PREFETCH load is granted only
when flushing is not urgent (R103), though the Flusher does not ask (log 36). -/
def State.grant (s : State) : Option Requester :=
  if s.card.holder = .none then
    if s.volumeAsks then some .volume
    else if s.isUrgent && s.flusherAsks then some .flusher
    else if s.headIs .demand && s.loaderGrantable then some .loader
    else if s.flusherAsks then some .flusher
    else if !s.isUrgent && s.headIs .prefetch && s.loaderGrantable then some .loader
    else none
  else none

/-- Whether a card transfer is in flight: a holder transfers while the card is READING_VOLUME or READY (R125,
R144). No state lies between two transfers of one holder (log 39). -/
def State.transferring (s : State) : Bool :=
  decide (s.card.holder ≠ .none) && (decide (s.card.state = .ready) || decide (s.card.state = .readingVolume))

/-- The base of a drive's scratch area; 0 while none is kept (R148). -/
def State.scratchBase (s : State) : Drive → Nat
  | .a => s.card.scratchA.getD 0
  | .b => s.card.scratchB.getD 0

/-- A track's entry in a drive's overlay table (R160). -/
def DriveUnit.overlayEntry (u : DriveUnit) (k : Key) : Option OverlayEntry :=
  u.overlay.find? fun o => decide (o.cylinder = k.cylinder) && decide (o.head = k.head)

end Sys2Proof.Machine
end

