-- ==== Sys2Proof/Machine/Ops.lean ====
section
/-! DEFINITION. The operations the meanings share: on drives, captures, slots, the load list, the commit queue, the
volume state write, mounts, the power states, and on the card that is removed or found bad. -/

namespace Sys2Proof.Machine

/-! ### Drives -/

/-- The state with a drive's record replaced (R28). -/
def State.setDrive (s : State) (d : Drive) (u : DriveUnit) : State :=
  match d with
  | .a => { s with driveA := u }
  | .b => { s with driveB := u }

/-- The spindle state motor demand starts in: SPINNING_UP, or AT_SPEED with a spin-up time of 0 (R30). -/
def spindleStart (spinUpMs : Nat) : Spindle := if spinUpMs = 0 then .atSpeed else .spinningUp spinUpMs

/-- A spindle under motor demand (R30), STOPPED in EMERGENCY and SPENT (R31). -/
def spindleUnder (failing demand : Bool) (spinUpMs : Nat) (x : Spindle) : Spindle :=
  if failing || !demand then .stopped
  else match x with
    | .stopped => spindleStart spinUpMs
    | x => x

/-- A key added to a held-key set, which holds no key twice (R50). -/
def addHeldKey (k : Key) (ks : List Key) : List Key := if ks.contains k then ks else ks ++ [k]

/-- A key joins a drive's held-key set (R52, R53). -/
def State.joinHeld (s : State) (d : Drive) (k : Key) : State :=
  s.setDrive d { s.drive d with heldKeys := addHeldKey k (s.drive d).heldKeys }

/-! ### Captures -/

/-- The state with a capture buffer replaced (R64). -/
def State.setBuffer (s : State) (b : BufferId) (x : CaptureBuffer) : State :=
  match b with
  | .one => { s with capture.buf1 := x }
  | .two => { s with capture.buf2 := x }

/-- A buffer's capture changed while it is CAPTURING. -/
def CaptureBuffer.whileCapturing (f : Capture → Capture) : CaptureBuffer → CaptureBuffer
  | .capturing c => .capturing (f c)
  | x => x

/-- Both buffers' captures changed where they are CAPTURING. -/
def State.mapCapturing (s : State) (f : Capture → Capture) : State :=
  { s with capture.buf1 := s.capture.buf1.whileCapturing f, capture.buf2 := s.capture.buf2.whileCapturing f }

/-- Whether a buffer is CAPTURING. -/
def CaptureBuffer.isCapturing : CaptureBuffer → Bool
  | .capturing _ => true
  | _ => false

/-- A CAPTURING buffer discarded: EMPTY (R64). -/
def CaptureBuffer.dropCapturing (x : CaptureBuffer) : CaptureBuffer := if x.isCapturing then .empty else x

/-- The admitted assertion's capture discarded, with WRITE_LOST if there was one, and the rest of the assertion no
longer admitted (R41, R42, R169). -/
def State.discardCapturing (s : State) : State :=
  { s.latchIf (s.capture.buf1.isCapturing || s.capture.buf2.isCapturing) .writeLost with
    capture.buf1 := s.capture.buf1.dropCapturing
    capture.buf2 := s.capture.buf2.dropCapturing
    cable.admitted := none }

/-- A buffer whose capture is orphaned: CAPTURING records on, WAITING_MERGE is emptied (R71). -/
def CaptureBuffer.orphan (hit : Capture → Bool) : CaptureBuffer → CaptureBuffer
  | .capturing c => .capturing (if hit c then { c with orphaned := true } else c)
  | .waitingMerge r => if hit r.capture then .empty else .waitingMerge r
  | x => x

/-- Whether a WAITING_MERGE buffer is emptied when captures are orphaned (R71). -/
def CaptureBuffer.losesTo (hit : Capture → Bool) : CaptureBuffer → Bool
  | .waitingMerge r => hit r.capture
  | _ => false

/-- Captures orphaned by a change of mount (R71). -/
def State.orphanCaptures (s : State) (hit : Capture → Bool) : State :=
  { s.latchIf (s.capture.buf1.losesTo hit || s.capture.buf2.losesTo hit) .writeLost with
    capture.buf1 := s.capture.buf1.orphan hit
    capture.buf2 := s.capture.buf2.orphan hit }

/-! ### Slots and the recency order -/

/-- The state with a slot record replaced. -/
def State.setSlot (s : State) (i : Fin 16) (x : Slot) : State := { s with cache.slots := s.cache.slots.set i x }

/-- A slot moved to the front of the recency order, or joining it there (R96). -/
def State.toFront (s : State) (i : Fin 16) : State :=
  { s with cache.recency := i :: s.cache.recency.filter fun j => decide (j ≠ i) }

/-- A slot becomes FREE: it takes the values of R91 and leaves the recency order (R96). -/
def State.free (s : State) (i : Fin 16) : State :=
  { s with
    cache.slots := s.cache.slots.set i Slot.free
    cache.recency := s.cache.recency.filter fun j => decide (j ≠ i) }

/-! ### The commit queue -/

/-- The urgent latch tested at a join (R122). -/
def urgentAtJoin (on length : Nat) (u : Bool) : Bool := if on ≤ length then true else u

/-- The urgent latch tested at a departure (R122). -/
def urgentAtDeparture (off length : Nat) (u : Bool) : Bool := if length ≤ off then false else u

/-- A slot joins the commit queue at its tail (R120, R122). -/
def State.joinQueue (s : State) (i : Fin 16) : State :=
  let q := s.commit.queue ++ [i]
  { s with commit := { queue := q, urgent := urgentAtJoin s.settings.urgentOn q.length s.commit.urgent } }

/-- The commit queue after departures, the urgent latch tested (R121, R122). -/
def State.departQueue (s : State) (q : List (Fin 16)) : State :=
  { s with commit := { queue := q, urgent := urgentAtDeparture s.settings.urgentOff q.length s.commit.urgent } }

/-- A slot withdrawn from the commit queue from wherever it stands; nothing changes if it is not in it (R121). -/
def State.withdraw (s : State) (i : Fin 16) : State :=
  if s.commit.queue.contains i then s.departQueue (s.commit.queue.filter fun j => decide (j ≠ i)) else s

/-! ### The load list -/

/-- A load list with its newest PREFETCH entry, the one at the tail, removed when it is full (R99). -/
def makeRoom (l : List LoadEntry) : List LoadEntry := if Config.loadListSize ≤ l.length then l.dropLast else l

/-- A DEMAND entry put after the last DEMAND entry and before every PREFETCH entry (R99). -/
def addDemand (x : LoadEntry) (l : List LoadEntry) : List LoadEntry :=
  (l.filter fun y => decide (y.kind = .demand)) ++ x :: l.filter fun y => decide (y.kind ≠ .demand)

/-- A DEMAND request (R99). -/
def State.requestLoad (s : State) (k : Key) (d : Drive) : State :=
  if s.isCached k then s
  else
    let x : LoadEntry := { key := k, kind := .demand, drive := d }
    match s.cache.loads.find? fun y => decide (y.key = k) with
    | some y =>
      if y.kind = .demand then s
      else { s with cache.loads := addDemand x (s.cache.loads.filter fun z => decide (z.key ≠ k)) }
    | none => { s with cache.loads := addDemand x (makeRoom s.cache.loads) }

/-- DEMAND requests for keys, those OUTSIDE left out (R34, R157). -/
def State.requestLoads (s : State) (d : Drive) (ks : List Key) : State :=
  ks.foldl (fun s k => if s.isOutside k then s else s.requestLoad k d) s

/-- The requests of a drive that is PRESENT for the keys of its head cylinder, none in EMERGENCY or SPENT (R34,
R157). -/
def State.requestCylinder (s : State) (d : Drive) : State :=
  if (s.drive d).isPresent && !s.isFailing then s.requestLoads d (s.driveKeys d) else s

/-- The requests a drive that is PRESENT and SETTLED makes at the return to RUN from EMERGENCY (R34, R171). -/
def State.requestSettled (s : State) (d : Drive) : State :=
  if (s.drive d).isSettled then s.requestCylinder d else s

/-- The entries a drive's step removes from the load list (R33, R100). -/
def State.dropEntriesOf (s : State) (d : Drive) : State :=
  { s with cache.loads := s.cache.loads.filter fun x => decide (x.drive ≠ d) }

/-- The drive for which a key that is no longer cached is requested again (R101). -/
def State.renewalDrive (s : State) (k : Key) : Option Drive :=
  [Drive.a, Drive.b].find? fun d =>
    (s.driveKeys d).contains k && (s.drive d).isPresent && (s.drive d).isSettled

/-- The renewal for a key whose slot has left LOADING for FREE (R101); an OUTSIDE key is never loaded (R60). -/
def State.renewDemand (s : State) (k : Key) : State :=
  if s.isFailing || s.isOutside k then s
  else match s.renewalDrive k with
    | none => s
    | some d => s.requestLoad k d

/-! ### Volume state writes -/

/-- A request joined to the pending volume state write: OPEN or CLEAN replaces its target, the recorded state leaves
it (R162). -/
def joinTarget : Option WriteTarget → WriteTarget → WriteTarget
  | some old, .recorded => old
  | _, t => t

/-- A volume state write requested; none while the record is empty, and answered as not made while the card is
write-locked or in write fault (R162, R163). -/
def State.requestWrite (s : State) (t : WriteTarget) : State :=
  if s.volume.record.isNone || s.writesBarred then s
  else { s with volume.pendingWrite := some (joinTarget s.volume.pendingWrite t) }

/-- The card enters write fault, with WRITE_FAIL (R137, R163). -/
def State.enterWriteFault (s : State) : State := { s.latch .writeFail with card.writeFault := true }

/-! ### Unmount and mount -/

/-- A slot that names an image when the image is unmounted from a drive, by its policy (R118). -/
def State.unmountSlot (s : State) (overlay : Bool) (i : Fin 16) : State :=
  if overlay then
    match (s.slot i).state with
    | .loading =>
      s.setSlot i { s.slot i with context := (s.slot i).context.map fun c => { c with abandoned := true } }
    | .clean | .failed | .held => s.free i
    | .dirty => (s.withdraw i).free i
    | .writing => s.setSlot i { s.slot i with state := .discarding, key := none, record := none, layout := none }
    | _ => s
  else
    match (s.slot i).state with
    | .failed => s.free i
    | _ => s

/-- The slots whose keys name an image at its unmount (R118). -/
def State.unmountSlots (s : State) (image : Nat) (overlay : Bool) : State :=
  slotIds.foldl
    (fun s i => if (s.slot i).key.any (fun k => decide (k.image = image)) then s.unmountSlot overlay i else s) s

/-- Whether an image's write policy is OVERLAY. -/
def State.isOverlay (s : State) (image : Nat) : Bool :=
  match s.entry image with
  | none => false
  | some e => decide (e.policy = .overlay)

/-- An image unmounted from a drive: its load entries go, the drive's captures are orphaned, its slots change by
policy, the overlay table is emptied (R158, R159, R160). -/
def State.unmountImage (s : State) (d : Drive) (image : Nat) : State :=
  let overlay := s.isOverlay image
  let s := { s with cache.loads := s.cache.loads.filter fun x => decide (x.key.image ≠ image) }
  let s := s.orphanCaptures fun c => decide (c.drive = d)
  let s := s.unmountSlots image overlay
  s.setDrive d { s.drive d with overlay := [], mounted := none, media := .noMedia, diskChange := true }

/-- The image a drive has mounted unmounted, if any. -/
def State.unmountDrive (s : State) (d : Drive) : State :=
  match (s.drive d).mounted with
  | none => s
  | some i => s.unmountImage d i

/-- A mount taken (R156). -/
def State.doMount (s : State) (d : Drive) (image : Nat) : State :=
  let s := s.unmountDrive d
  let s := s.setDrive d
    { s.drive d with mounted := some image, media := .swap s.settings.swapMs, diskChange := true, overlay := [] }
  s.requestWrite .recorded

/-- An unmount request taken on a drive with an image (R156). -/
def State.doUnmount (s : State) (d : Drive) : State := (s.unmountDrive d).requestWrite .recorded

/-- Whether a mount request is refused (R155). -/
def State.refuses (s : State) (m : MountRequest) : Bool :=
  s.isFailing
    || (match m.slot with
      | none => false
      | some i =>
        decide (s.card.state ≠ .ready) || (s.entry i).isNone
          || decide ((s.drive (otherDrive m.drive)).mounted = some i))
    || (decide (m.drive = .b) && s.driveBOff)

/-- A mount request decided (R155). -/
def State.decideMount (s : State) (m : MountRequest) : State :=
  if s.refuses m then s.latch .mountRefused
  else match m.slot with
    | some i => s.doMount m.drive i
    | none => if (s.drive m.drive).mounted.isNone then s else s.doUnmount m.drive

/-- The deferred mount requests decided, in their order (R155). -/
def State.decideDeferred (s : State) : State :=
  if s.card.state = .waking then s
  else s.volume.deferred.foldl State.decideMount { s with volume.deferred := [] }

/-! ### Power states -/

/-- An ASLEEP card woken (R153). -/
def State.wakeCard (s : State) : State := if s.card.state = .asleep then { s with card.state := .waking } else s

/-- The return from DRAIN or QUIET to RUN with the counter at 0: an idle drain is cancelled, its request on drain mode
withdrawn (R166, R168). -/
def State.returnToRun (s : State) : State :=
  if s.power.state = .drain ∨ s.power.state = .quiet then
    { s with power.state := .run, power.idle := 0, power.job := .none }
  else s

/-- Cable activity (R165, R166, R168). -/
def State.activity (s : State) : State :=
  match s.power.state with
  | .run => { s with power.idle := 0 }
  | .drain => s.returnToRun
  | .quiet => s.returnToRun.wakeCard
  | _ => s

/-- EMERGENCY entered (R169): spindles and hold follow at the end of the command. -/
def State.enterEmergency (s : State) : State :=
  let s := s.discardCapturing
  { s with
    cable.guard := false
    card.holder := match s.card.holder with
      | .loader op => .loader { op with abort := true }
      | h => h
    power.state := .emergency
    power.idle := 0
    power.recovery := false
    power.job := .emergency .draining }

/-- A mount request made (R155): in QUIET the part returns to RUN and an ASLEEP card is woken; while the card is WAKING
the request waits. -/
def State.requestMount (s : State) (m : MountRequest) : State :=
  let s := if s.power.state = .quiet then s.returnToRun.wakeCard else s
  if s.card.state = .waking then { s with volume.deferred := s.volume.deferred ++ [m] } else s.decideMount m

/-! ### A write cut off -/

/-- A run of blocks after a write of it was cut off: whole new blocks, at most one torn block, the rest as before. A
torn block that would pass as whole on its own is as before (R133, R163, log 6). -/
def cutRun (before new : List Byte) (whole : Nat) (torn : List Byte) (passes : List Byte → Bool) : List Byte :=
  let at_ := whole * Config.blockBytes
  let rest := before.drop at_
  if rest = [] ∨ torn = [] then new.take at_ ++ rest
  else
    let block := padTo Config.blockBytes torn
    if whole = 0 ∧ passes block then before
    else new.take at_ ++ block ++ rest.drop Config.blockBytes

/-- Whether a first block of a place is VALID (R108). -/
def isValidHead (b : List Byte) : Bool :=
  match placeClass b with
  | .valid _ => true
  | _ => false

/-- The card's bytes after a write of blocks from a block address was cut off (R133, R163). -/
def cutMedium (m : Memory) (n block : Nat) (new : List Byte) (passes : List Byte → Bool) : Memory :=
  let blocks := new.length / Config.blockBytes
  let before := Memory.readBlocks m block blocks
  Memory.writeBytes m (block * Config.blockBytes)
    (cutRun before new (min (Config.cutBlocks n) blocks) (Config.tornBlock n) passes)

/-- The write in flight, if there is one: its first block, its bytes, and how a whole block of its kind is told. -/
def State.writeInFlight (s : State) : Option (Nat × List Byte × (List Byte → Bool)) :=
  if s.transferring then
    match s.card.holder with
    | .volumeWrite c _ => some (15, volumeStateBlock c, fun b => checkPasses b 7)
    | .flusher op =>
      match op.stage with
      | .write place _ => some (placeBlock op.base place, inBlocks (s.card.buffer.getD []), isValidHead)
      | _ => none
    | _ => none
  else none

/-- The write in flight cut off, if there is one (R133, R163). -/
def State.cutWrite (s : State) : State :=
  match s.writeInFlight with
  | none => s
  | some (block, new, passes) =>
    { s with card.medium := cutMedium s.card.medium s.freeCount block new passes, freeCount := s.freeCount + 1 }

/-! ### Removal, card fault, discard -/

/-- A drive with its mount cleared (R29, R146). -/
def DriveUnit.cleared (u : DriveUnit) : DriveUnit :=
  { u with media := .noMedia, mounted := none, diskChange := true, overlay := [] }

/-- The effects of removal but for the card state (R146). The kept scratch bases go with the header. -/
def State.removalEffects (s : State) : State :=
  let s := s.latchIf s.anyUnwritten .dirtyLost
  let s := s.orphanCaptures fun _ => true
  { s with
    driveA := s.driveA.cleared
    driveB := s.driveB.cleared
    cache := { slots := Vector.replicate 16 Slot.free, recency := [], loads := [] }
    commit := { queue := [], urgent := false }
    card := { s.card with
      holder := .none, buffer := none, writeLocked := false, writeFault := false, capacity := none, header := none
      scratchA := none, scratchB := none }
    volume.catalogue := Vector.replicate 100 none
    volume.record := none
    volume.pendingWrite := none }

/-- The card becomes FAULT (R147). -/
def State.enterFault (s : State) : State := { (s.removalEffects).latch .cardFault with card.state := .fault }

/-- The card state after the discard step of a restart (R173). -/
def CardState.afterDiscard : CardState → CardState
  | .settling => .settling
  | .absent => .absent
  | .fault => .fault
  | _ => .identifying 0

/-- Whether the write-lock switch is sampled at the discard (R173). -/
def CardState.sampledAtDiscard : CardState → Bool
  | .settling | .absent | .fault => false
  | _ => true

/-- The discard step of a restart (R173). -/
def State.discard (s : State) : State :=
  let s := s.cutWrite.removalEffects
  { s with
    card.state := s.card.state.afterDiscard
    card.writeLocked := s.card.state.sampledAtDiscard && s.lines.lockSwitch
    power.job := .none
    power.flsh := false
    power.idle := 0 }

/-! ### Drains and the closing of the volume -/

/-- The job as it waits for its closing write (R167). -/
def Job.closing : Job → Job
  | .idle _ => .idle .closing
  | .emergency _ => .emergency .closing
  | .restart _ => .restart .closing
  | j => j

/-- The job with its drain turned on again (R167, R170, R172). -/
def Job.redraining : Job → Job
  | .idle _ => .idle .draining
  | .emergency _ => .emergency .draining
  | .restart _ => .restart .draining
  | j => j

/-- What follows once the volume is closed, or cannot be: the sleep request, SPENT, or the discard (R167, R170,
R172). -/
def State.afterClose (s : State) : State :=
  match s.power.job with
  | .idle _ => { s with power.job := .idleSleep }
  | .emergency _ => { s with power.state := .spent, power.job := .none }
  | .restart _ => s.discard
  | _ => s

/-- Step 1 of R167: close the volume. -/
def State.closeVolume (s : State) : State :=
  if s.volume.record.isNone || decide (s.volumeState = some .clean) || s.writesBarred then s.afterClose
  else { s.requestWrite .clean with power.job := s.power.job.closing }

/-- A request to close that can no longer be answered by its write: the write was dropped or not made (R167). -/
def State.closingLost (s : State) : Bool :=
  s.power.job.isClosing && s.volume.pendingWrite.isNone && !s.card.holder.isVolumeWrite

/-! ### Loads and flushes that end -/

/-- The Loader gives the card back. -/
def State.giveBack (s : State) : State := { s with card.holder := .none }

/-- A PREFETCH entry added if it may be (R102). -/
def State.addPrefetch (s : State) (d : Drive) (k : Key) : State :=
  if !s.isCached k && !s.isListed k && decide (s.cache.loads.length < Config.loadListSize)
      && decide (s.cache.loads.length < s.roomCount) then
    { s with cache.loads := s.cache.loads ++ [{ key := k, kind := .prefetch, drive := d }] }
  else s

/-- The cylinder next in a drive's last step direction, if the image has it (R102). -/
def prefetchTarget (dir : StepDir) (cylinder cylinders : Nat) : Option Nat :=
  match dir with
  | .inward => if cylinder + 1 < cylinders then some (cylinder + 1) else none
  | .outward => if 0 < cylinder ∧ cylinder ≤ cylinders then some (cylinder - 1) else none

/-- Prefetch considered after a DEMAND load of a key for a drive has ended (R102). -/
def State.considerPrefetch (s : State) (k : Key) (d : Drive) : State :=
  let u := s.drive d
  if s.settings.prefetch && !s.drainMode && decide (s.commit.queue.length < s.settings.urgentOn)
      && decide (u.mounted = some k.image) && u.isPresent && decide (u.cylinder = k.cylinder)
      && (s.driveKeys d).all s.isKeyResident then
    match s.entry k.image with
    | none => s
    | some e =>
      match prefetchTarget u.lastDir u.cylinder e.cylinders with
      | none => s
      | some c => (s.cylinderKeys k.image c).foldl (fun s k => s.addPrefetch d k) s
  else s

/-- How a load ends: with a record, or without one, and an alert (R109 to R111). `ofProbe` alerts stand for an
abandoned load too (R117, log 22). -/
structure LoadResult where
  record : Option Record
  origin : Origin
  alert : Option Alert
  ofProbe : Bool
  deriving DecidableEq, Repr

/-- The alert of a load's end. -/
def State.latchLoad (s : State) (r : LoadResult) (abandoned : Bool) : State :=
  match r.alert with
  | none => s
  | some a => s.latchIf (r.ofProbe || !abandoned) a

/-- A slot whose load has ended (R112, R113). -/
def Slot.loaded (x : Slot) (r : LoadResult) : Slot :=
  { x with
    state := if r.record.isSome then .clean else .failed
    record := r.record
    layout := r.record.bind Record.layout
    origin := r.origin
    context := none }

/-- Prefetch considered if the load was a DEMAND load (R102, R112). -/
def State.prefetchAfter (s : State) (x : Slot) : State :=
  match x.context, x.key with
  | some c, some k => if c.kind = .demand then s.considerPrefetch k c.drive else s
  | _, _ => s

/-- A slot leaves LOADING for FREE and its key may be requested again (R101, R117). -/
def State.freeLoading (s : State) (i : Fin 16) : State :=
  let key := (s.slot i).key
  let s := (s.free i).giveBack
  match key with
  | none => s
  | some k => s.renewDemand k

/-- A load ends (R112), an abandoned one with its slot FREE (R117). -/
def State.endLoad (s : State) (i : Fin 16) (r : LoadResult) : State :=
  let x := s.slot i
  let abandoned := x.context.any LoadContext.abandoned
  let s := s.latchLoad r abandoned
  if abandoned then s.freeLoading i
  else (((s.setSlot i (x.loaded r)).toFront i).giveBack).prefetchAfter x

/-- A flush fails finally (R137). -/
def State.failFlush (s : State) (op : FlushOp) : State :=
  let s := match (s.slot op.slot).state with
    | .writing => s.setSlot op.slot { s.slot op.slot with state := .held }
    | .discarding => s.free op.slot
    | _ => s
  { s.enterWriteFault with card.holder := .none, card.buffer := none }

/-- The stage a flush attempt begins with: a probe again while the origin is UNKNOWN, else its write (R136). -/
def FlushStage.again : FlushStage → FlushStage
  | .write place generation => .write place generation
  | _ => .probe0 1

/-- A flush attempt has failed: the next one, up to three in all (R136, R137). -/
def State.failFlushAttempt (s : State) (op : FlushOp) : State :=
  let x := s.slot op.slot
  if x.attempts < Config.maxAttempts then
    { s.setSlot op.slot { x with attempts := x.attempts + 1 } with
      card.holder := .flusher { op with stage := op.stage.again } }
  else s.failFlush op

end Sys2Proof.Machine
end

