-- ==== Sys2Proof/Machine/React.lean ====
section
/-! DEFINITION. What holds from moment to moment, taken at the end of every command (log 26): cable activity, spindles,
cable faults (c) and (d), deferred mount requests, drains, the requests of waiting captures, the governing track, the
index hold, the start of serving, the pages. `s0` is the state before the command, `s` the state its effect left. -/

namespace Sys2Proof.Machine

/-! ### The cable -/

/-- Lasting cable activity (R43, R165). -/
def State.followActivity (s : State) : State := if s.activeLine then s.activity else s

/-- Both spindles under their motor demand and the power state (R30, R31). -/
def State.followSpindles (s : State) : State :=
  { s with
    driveA.spindle := spindleUnder s.isFailing (s.motorDemand .a) s.settings.spinUpMs s.driveA.spindle
    driveB.spindle := spindleUnder s.isFailing (s.motorDemand .b) s.settings.spinUpMs s.driveB.spindle }

/-- Cable fault (c) at its start (R25, log 14). -/
def State.followFaultC (s0 s : State) : State := s.latchIf (s.faultC && !s0.faultC) .cableFault

/-- Whether the admitted assertion's drive has ceased to be selected (R42). -/
def State.lostSelection (s : State) : Bool :=
  match s.cable.admitted with
  | none => false
  | some a => decide (s.selected ≠ some a.drive)

/-- Cable fault (d) by a change of selection (R42). -/
def State.followFaultD (s : State) : State :=
  if s.lostSelection then (s.latch .cableFault).discardCapturing else s

/-! ### Drains (R124, R128, R163, R167) -/

/-- A pending write answered as not made while the card is write-locked or in write fault (R163). -/
def State.dropBarredWrite (s : State) : State :=
  if s.writesBarred then { s with volume.pendingWrite := none } else s

/-- Whether a volume state write that will leave the volume OPEN is pending or in flight. -/
def State.openComing (s : State) : Bool :=
  decide (s.volume.pendingWrite = some .open)
    || match s.card.holder with
      | .volumeWrite c _ => decide (c.state = .open)
      | _ => false

/-- The OPEN marker requested before the first flush after CLEAN (R127, R128). -/
def State.requestMarker (s : State) : State :=
  if s.flusherReady && decide (s.volumeState = some .clean) && !s.openComing then s.requestWrite .open else s

/-- Whether drain mode ends here: complete, or stalled under write fault (R124). -/
def State.drainEnds (s : State) : Bool :=
  s.drainMode && !s.anyWriting && (s.commit.queue.isEmpty || s.card.writeFault)

/-- The end of drain mode: FLSH's request ends, and a draining job closes the volume (R124, R167, R183). -/
def State.followDrainEnd (s : State) : State :=
  if s.drainEnds then
    let draining := s.power.job.isDraining
    let s := { s with power.flsh := false }
    if draining then s.closeVolume else s
  else s

/-- A close whose write was dropped or not made goes on (R167, R170, R172). -/
def State.followClose (s : State) : State := if s.closingLost then s.afterClose else s

/-- The sleep request with no usable card: QUIET at once (R167). -/
def State.followSleep (s : State) : State :=
  if s.power.job = .idleSleep ∧ (s.card.state = .absent ∨ s.card.state = .fault) then
    { s with power.state := .quiet, power.job := .none }
  else s

/-- The drain and the closing of the volume. -/
def State.followDrain (s : State) : State :=
  s.dropBarredWrite.requestMarker.followDrainEnd.followClose.followSleep

/-! ### The load list -/

/-- A waiting capture whose key is not cached and not listed requests a DEMAND load for its drive (R73). -/
def State.requestFor (s : State) (b : BufferId) : State :=
  match s.buffer b with
  | .waitingMerge r =>
    if !s.isCached r.capture.key && !s.isListed r.capture.key then s.requestLoad r.capture.key r.capture.drive else s
  | _ => s

/-- The requests of both buffers, those of buffer 1 first (R73, log 35). -/
def State.followCaptures (s : State) : State := (s.requestFor .one).requestFor .two

/-- PREFETCH entries at the head with no slot FREE or evictable are removed (R104). -/
def State.dropPrefetch (s : State) : State :=
  if s.hasRoom then s
  else { s with cache.loads := s.cache.loads.dropWhile fun x => decide (x.kind = .prefetch) }

/-! ### Rotation -/

/-- The counter rescaled to a new length (R48). -/
def rescale (position old new : Nat) : Nat := position * new / old

/-- The governing track re-derived, the counter rescaled, captures marked frame-changed (R46, R48, R67). -/
def State.followGoverning (s : State) : State :=
  match s.governing with
  | none => s
  | some (cells, rate) =>
    if cells = s.rotation.cells then { s with rotation.rate := rate }
    else
      let s := s.mapCapturing fun c => { c with frameChanged := true }
      { s with
        rotation.position := rescale s.rotation.position s.rotation.cells cells
        rotation.cells := cells
        rotation.rate := rate }

/-- What becomes of a hold in progress: it goes on, with its key or the new served key, or is released (R53, R54). -/
def State.holdNext (s : State) (k : Key) (d : Drive) : Option Key :=
  if s.selected = some d ∧ (s.drive d).qualifies ∧ !s.isKeyResident k then
    match s.servedKey with
    | none => none
    | some k' => if k' = k then some k else if s.canHold d k' then some k' else none
  else none

/-- The hold state evaluated afresh (R51, R56). -/
def State.armHold (s : State) : State := { s with rotation.hold := if s.armable then .armed else .none }

/-- The hold state followed (R51, R53, R54, R56). -/
def State.followHold (s : State) : State :=
  match s.rotation.hold with
  | .held k d limit =>
    match s.holdNext k d with
    | some k' => { s.joinHeld d k' with rotation.hold := .held k' d limit }
    | none => s.armHold
  | _ => s.armHold

/-- The synthesizer starts serving a slot: it moves to the front of the recency order (R57, R96). -/
def State.followServing (s0 s : State) : State :=
  match s.served with
  | none => s
  | some x => if s0.served = some x then s else s.toFront x.1

/-! ### The panel -/

/-- The page without what it holds. -/
inductive PageKind where
  | normal
  | browse
  | alert
  | service
  deriving DecidableEq, Repr

/-- Which of the four pages is shown (R178). -/
def Page.kind : Page → PageKind
  | .normal => .normal
  | .browse _ => .browse
  | .alert => .alert
  | .service _ => .service

/-- A page change that the alerts bring: NORMAL gives place to ALERT, ALERT to NORMAL (R178, R185). -/
def State.alertPage (s : State) : Page :=
  match s.panel.page with
  | .normal => if s.shownLatch.isSome then .alert else .normal
  | .alert => if s.shownLatch.isSome then .alert else .normal
  | p => p

/-- A key at a page change: stale if it is pressed (R175). -/
def KeyState.atPageChange (k : KeyState) : KeyState := { k with stale := k.stale || k.pressed, clicked := false }

/-- The length of a blink period (R176). -/
def BlinkRate.periodMs : BlinkRate → Nat
  | .slow => 1000
  | .fast => 400

/-- The blink period starts, lit (R176). -/
def Panel.startBlink (p : Panel) (r : BlinkRate) : Panel := { p with blinkLit := true, blinkPeriod := r.periodMs }

/-- Whether the text that blinks has changed: another page, candidate or alert code (R176, R181). -/
def blinkRestarts (s0 s : State) : Bool :=
  decide (s0.panel.page ≠ s.panel.page)
    && (decide (s0.panel.page.kind ≠ s.panel.page.kind) || decide (s.panel.page.kind = .browse))
    || (decide (s.panel.page = .alert) && decide (s0.shownLatch ≠ s.shownLatch))

/-- The pages followed, with what a page change does to the keys and the blink (R175, R176, R178). -/
def State.followPages (s0 s : State) : State :=
  let s := { s with panel.page := s.alertPage }
  let s :=
    if s0.panel.page.kind ≠ s.panel.page.kind then
      { s with
        panel.prev := s.panel.prev.atPageChange
        panel.next := s.panel.next.atPageChange
        panel.enter := s.panel.enter.atPageChange }
    else s
  if blinkRestarts s0 s then { s with panel := s.panel.startBlink s.settings.blink } else s

/-! ### The end of a command -/

/-- What the cable brings: activity, spindles, faults. -/
def State.followCable (s0 s : State) : State :=
  (State.followFaultC s0 s.followActivity.followSpindles).followFaultD

/-- What the card and its users bring: mounts that waited, drains, load requests. -/
def State.followCard (s : State) : State :=
  s.decideDeferred.followDrain.decideDeferred.followCaptures.dropPrefetch

/-- What the turning track brings. -/
def State.followTrack (s0 s : State) : State := State.followServing s0 s.followGoverning.followHold

/-- The end of a command (log 26). -/
def react (s0 s : State) : State :=
  State.followPages s0 (State.followTrack s0 (State.followCable s0 s).followCard)

/-- A command that changes input lines and has an effect: without supply the lines alone follow (log 7). -/
def State.answer (s0 lines : State) (effect : State → State) : Host.Outcome State Fault Refusal :=
  .next (if s0.powered then react s0 (effect lines) else lines)

/-- A command that is an event inside the part. -/
def State.event (s : State) (effect : State → State) : Host.Outcome State Fault Refusal := s.answer s effect

end Sys2Proof.Machine
end

