-- ==== Sys2Proof/Machine/CableInterface.lean ====
section
/-! DEFINITION. What the input lines do: selects, motors, side, steps, the write gate and its guard (chapter 2). -/

namespace Sys2Proof.Machine

/-- SELECT_LINE_CHANGE (R25): the select lines take new levels; selection, faults (c) and (d), activity and spindles
follow at the end of the command. -/
def execSelectLineChange (sel0 sel1 sel2 sel3 : Bool) (s : State) : Host.Outcome State Fault Refusal :=
  s.answer
    { s with lines := { s.lines with sel0 := sel0, sel1 := sel1, sel2 := sel2, sel3 := sel3 } } id

/-- MOTOR_LINE_CHANGE (R26): the motor lines take new levels; spindles and activity follow. -/
def execMotorLineChange (mot0 mot1 : Bool) (s : State) : Host.Outcome State Fault Refusal :=
  s.answer { s with lines := { s.lines with mot0 := mot0, mot1 := mot1 } } fun s => s

/-- The head cylinder after a step, held within 0 to 84 (R32). -/
def stepCylinder (dir : Bool) (c : Nat) : Nat := if dir then min (c + 1) Config.maxCylinder else c - 1

/-- The direction of a step (R32). -/
def stepDir (dir : Bool) : StepDir := if dir then .inward else .outward

/-- A drive's record after an obeyed step (R32, R33, R35). -/
def DriveUnit.stepped (u : DriveUnit) (dir : Bool) (settleMs : Nat) : DriveUnit :=
  { u with
    cylinder := stepCylinder dir u.cylinder
    lastDir := stepDir dir
    motion := .moving settleMs
    diskChange := u.diskChange && !u.isPresent }

/-- Whether an admitted assertion for a drive is in progress (R41). -/
def State.writingTo (s : State) (d : Drive) : Bool :=
  match s.cable.admitted with
  | none => false
  | some a => decide (a.drive = d)

/-- A step obeyed by a drive (R32, R33, R41). -/
def State.obeyStep (s : State) (d : Drive) (dir : Bool) : State :=
  let s := if s.writingTo d then (s.latch .cableFault).discardCapturing else s
  (s.setDrive d ((s.drive d).stepped dir s.settings.settleMs)).dropEntriesOf d

/-- A STEP pulse: cable activity, obeyed or not (R32, R43). -/
def State.stepPulse (s : State) (dir : Bool) : State :=
  let s := s.activity
  match s.selected with
  | none => s
  | some d => s.obeyStep d dir

/-- STEP (R32). -/
def execStep (dir : Bool) (s : State) : Host.Outcome State Fault Refusal :=
  s.answer { s with lines.dir := dir } fun s => s.stepPulse dir

/-- A change of SIDE during an admitted assertion: cable fault (d) (R42). -/
def State.sideFault (s : State) : State :=
  if s.cable.admitted.isSome then (s.latch .cableFault).discardCapturing else s

/-- SIDE_CHANGE (R27): a level SIDE already has is no change. -/
def execSideChange (side : Bool) (s : State) : Host.Outcome State Fault Refusal :=
  if side = s.lines.side then s.event id else s.answer { s with lines.side := side } State.sideFault

/-- How a leading edge of WGATE is judged (R39). -/
inductive GateOutcome where
  | ignored
  | fault
  | admitted (d : Drive) (k : Key)
  deriving DecidableEq, Repr

/-- The judgement of R39, first row that holds. -/
def State.judgeGate (s : State) : GateOutcome :=
  if s.cable.guard then .ignored
  else match s.selected with
    | none => .ignored
    | some d =>
      if s.wprot d then .ignored
      else if !(s.drive d).isAtSpeed || s.isHeld then .fault
      else match s.keyOf d with
        | none => .ignored
        | some k => .admitted d k

/-- The capture encoding: that of a resident SECTORED or RAW record, else the entry's default (R65). -/
def State.captureEncoding (s : State) (k : Key) : Encoding :=
  match s.entry k.image with
  | none => .mfm
  | some e => ((s.recordOf k).getD .empty).encodingIn e

/-- The capture as it is latched at admission (R65). -/
def State.newCapture (s : State) (d : Drive) (k : Key) : Capture where
  drive := d
  key := k
  encoding := s.captureEncoding k
  rate := s.rotation.rate
  cells := s.rotation.cells
  start := s.rotation.position
  frameChanged := false
  orphaned := false
  crossings := 0
  revCells := []
  count := 0
  recent := []
  opened := none
  fields := []
  phase := 0

/-- An assertion admitted for a drive and a key: the lowest EMPTY buffer captures it, or WRITE_LOST (R39, R65). -/
def State.admitFor (s : State) (d : Drive) (k : Key) : State :=
  match s.emptyBuffer with
  | some b => { s.setBuffer b (.capturing (s.newCapture d k)) with cable.admitted := some ⟨d, some b⟩ }
  | none => { s.latch .writeLost with cable.admitted := some ⟨d, none⟩ }

/-- The leading edge of a WGATE assertion (R39). -/
def State.gateEdge (s : State) : State :=
  match s.judgeGate with
  | .ignored => s
  | .fault => s.latch .cableFault
  | .admitted d k => s.admitFor d k

/-- WGATE_ASSERT (R39): one assertion from released. -/
def execWgateAssert (s : State) : Host.Outcome State Fault Refusal :=
  if s.lines.wgate then s.event id else s.answer { s with lines.wgate := true } State.gateEdge

/-- The capture record at the release (R70). -/
def State.release (s : State) (c : Capture) : Released where
  capture := c.close
  endPos := s.rotation.position
  indexCrossed := decide (1 ≤ c.crossings)
  order := s.capture.releases + 1

/-- A capture discarded at its release (R72). -/
def State.isLostAtRelease (s : State) (c : Capture) : Bool := c.orphaned || s.isOutside c.key || c.frameChanged

/-- A CAPTURING buffer at the release of WGATE (R70, R72). -/
def State.releaseBuffer (s : State) (b : BufferId) : State :=
  match s.buffer b with
  | .capturing c =>
    let s' := { s with capture.releases := s.capture.releases + 1 }
    if s.isLostAtRelease c then (s'.latch .writeLost).setBuffer b .empty
    else s'.setBuffer b (.waitingMerge (s.release c))
  | _ => s

/-- The release of WGATE: the admitted assertion's capture, if it holds one, is released (R70). -/
def State.gateRelease (s : State) : State :=
  let s' := { s with cable.admitted := none }
  match s.cable.admitted with
  | some ⟨_, some b⟩ => s'.releaseBuffer b
  | _ => s'

/-- WGATE_RELEASE (R70). -/
def execWgateRelease (s : State) : Host.Outcome State Fault Refusal :=
  if s.lines.wgate then s.answer { s with lines.wgate := false } State.gateRelease else s.event id

/-- WRITE_GUARD_EXPIRY (R40). -/
def execWriteGuardExpiry (s : State) : Host.Outcome State Fault Refusal :=
  s.event fun s => { s with cable.guard := false }

end Sys2Proof.Machine
end

