-- ==== Sys2Proof/Machine/Transfers.lean ====
section
/-! DEFINITION. How a failed attempt of a card transfer is taken by its holder (R144): the insertion reads (R148 to
R152), the volume state write (R163), the load (R106), the flush (R131, R136). -/

namespace Sys2Proof.Machine

/-! ### The insertion reads -/

/-- The next insertion read starts. -/
def State.nextRead (s : State) (r : InsertionRead) : State := { s with card.holder := .volumeRead r 1 }

/-- The settings in force replaced; settings that give drive B's line as OFF make the panel drive A (R149, R177). -/
def State.putSettings (s : State) (t : Settings) (good : Bool) : State :=
  let s := { s with settings := t }
  let s := if s.driveBOff then { s with panel.drive := .a } else s
  (s.latchIf (!good) .settingsBad).nextRead .catalogue

/-- The catalogue replaced (R150). -/
def State.putCatalogue (s : State) (c : Vector (Option CatalogueEntry) 100) : State :=
  { s with volume.catalogue := c }.nextRead .volumeState

/-- The volume state record of a block that cannot be read, or whose check fails (R151). -/
def VolumeRecord.unknown : VolumeRecord where
  state := .open
  slotA := none
  slotB := none
  count := 0

/-- The mount request for a last slot; none makes no request (R152). -/
def State.restoreMount (s : State) (d : Drive) (slot : Option Nat) : State :=
  match slot with
  | none => s
  | some i => s.requestMount { drive := d, slot := some i }

/-- The mounts restored from the last slots, drive A's first (R152). -/
def State.restoreMounts (s : State) (r : VolumeRecord) : State :=
  if s.settings.restoreMounts then
    let s := s.restoreMount .a r.slotA
    if s.driveBOff then s else s.restoreMount .b r.slotB
  else s

/-- Whether the mount table differs from the record's last slots (R152, R162). -/
def State.mountsDiffer (s : State) (r : VolumeRecord) : Bool :=
  decide (s.driveA.mounted ≠ r.slotA) || decide (s.driveB.mounted ≠ r.slotB)

/-- The last insertion read has ended with this record: READY, DRAIN and QUIET return to RUN, mounts are restored, a
write is requested if the mounts differ (R151, R152, R166, R168). -/
def State.finishInsertion (s : State) (r : VolumeRecord) : State :=
  let s := s.latchIf (decide (r.state = .open)) .unclean
  let s := { s with volume.record := some r, card.holder := .none, card.state := .ready }
  let s := (s.returnToRun).restoreMounts r
  if s.mountsDiffer r then s.requestWrite .recorded else s

/-- An insertion read whose third attempt failed (R148 to R151). -/
def State.failRead (s : State) : InsertionRead → State
  | .header => s.enterFault
  | .settings => s.putSettings Settings.defaults false
  | .catalogue => s.putCatalogue (Vector.replicate 100 none)
  | .volumeState => s.finishInsertion VolumeRecord.unknown

/-! ### Loads and flushes -/

/-- The generation a first block states (R188). -/
def headGeneration (b : List Byte) : Nat := le32At b 6

/-- A load's end on a read whose third attempt failed (R108, R110, R111). -/
def LoadOp.readFailure (op : LoadOp) : LoadResult :=
  match op.stage with
  | .body _ place head _ _ =>
    { record := none, origin := .at op.area place (headGeneration head), alert := some .readFail, ofProbe := false }
  | .overlayHead _ place generation =>
    { record := none, origin := .at op.area place generation, alert := some .readFail, ofProbe := true }
  | _ => { record := none, origin := .unknown, alert := some .readFail, ofProbe := true }

/-- The attempt a load's transfer is at (R106). -/
def LoadStage.attempt : LoadStage → Nat
  | .probe0 a => a
  | .probe1 a _ => a
  | .overlayHead a _ _ => a
  | .body a _ _ _ _ => a

/-- The same transfer at its next attempt (R106). -/
def LoadStage.retry : LoadStage → LoadStage
  | .probe0 a => .probe0 (a + 1)
  | .probe1 a h => .probe1 (a + 1) h
  | .overlayHead a p g => .overlayHead (a + 1) p g
  | .body a p h o n => .body (a + 1) p h o n

/-- The attempt a flush's read is at; a write has none, its attempts are the slot's (R131). -/
def FlushStage.attempt : FlushStage → Nat
  | .probe0 a => a
  | .probe1 a _ => a
  | .check a _ _ _ => a
  | .write _ _ => Config.maxAttempts

/-- The same read at its next attempt (R131). -/
def FlushStage.retry : FlushStage → FlushStage
  | .probe0 a => .probe0 (a + 1)
  | .probe1 a h => .probe1 (a + 1) h
  | .check a p h g => .check (a + 1) p h g
  | .write p g => .write p g

/-- A load given up at a block boundary: its slot FREE, the card given back, no alert (R116). -/
def State.abortLoad (s : State) (op : LoadOp) : State := s.freeLoading op.slot

/-- A failed attempt of a load's transfer (R106). -/
def State.failLoadRead (s : State) (op : LoadOp) : State :=
  if op.abort then s.abortLoad op
  else if op.stage.attempt < Config.maxAttempts then
    { s with card.holder := .loader { op with stage := op.stage.retry } }
  else s.endLoad op.slot op.readFailure

/-- A failed attempt of a flush's transfer (R131, R136). -/
def State.failFlushTransfer (s : State) (op : FlushOp) : State :=
  if op.stage.attempt < Config.maxAttempts then
    { s with card.holder := .flusher { op with stage := op.stage.retry } }
  else s.failFlushAttempt op

/-- A failed attempt of a volume state write (R128, R163). -/
def State.failVolumeWrite (s : State) (c : VolumeRecord) (attempt : Nat) : State :=
  if attempt < Config.maxAttempts then { s with card.holder := .volumeWrite c (attempt + 1) }
  else { s.enterWriteFault with card.holder := .none, volume.pendingWrite := none }

/-- A failed attempt taken by the card's holder (R144). -/
def State.failAttempt (s : State) : State :=
  match s.card.holder with
  | .none => s
  | .volumeRead r a =>
    if a < Config.maxAttempts then { s with card.holder := .volumeRead r (a + 1) } else s.failRead r
  | .volumeWrite c a => s.failVolumeWrite c a
  | .loader op => s.failLoadRead op
  | .flusher op => s.failFlushTransfer op

end Sys2Proof.Machine
end

