-- ==== Sys2Proof/Machine/CardUnit.lean ====
section
/-! DEFINITION. The Card Unit: detection, identification, the insertion reads, timeouts and re-identification, sleep
and wake, removal (chapter 7). -/

namespace Sys2Proof.Machine

/-! ### The slot -/

/-- The card in the slot and its switch closed (R141, R143). -/
def State.withCard (s : State) (c : CardInSlot) : State :=
  { s with lines.cardDetect := true, lines.lockSwitch := c.locked, card.medium := Memory.ofCells c.bytes }

/-- Card detect asserts: ABSENT becomes SETTLING (R141). -/
def State.detected (s : State) : State := if s.card.state = .absent then { s with card.state := .settling } else s

/-- CARD_DETECT_ASSERT (R141): one assertion from released. -/
def execCardDetectAssert (c : CardInSlot) (s : State) : Host.Outcome State Fault Refusal :=
  if s.lines.cardDetect then s.event id else s.answer (s.withCard c) State.detected

/-- DEBOUNCE_EXPIRY (R141, R143): in SETTLING, the lock switch is sampled and identification begins. -/
def execDebounceExpiry (s : State) : Host.Outcome State Fault Refusal :=
  s.event fun s =>
    if s.card.state = .settling then { s with card.state := .identifying 0, card.writeLocked := s.lines.lockSwitch }
    else s

/-- No card in the slot. -/
def State.withoutCard (s : State) : State :=
  { s with lines.cardDetect := false, lines.lockSwitch := false, card.medium := [] }

/-- Card detect releases (R141, R146, R147). -/
def State.removed (s : State) : State :=
  match s.card.state with
  | .absent => s
  | .settling => { s with card.state := .absent }
  | .fault => { s with card.state := .absent }
  | _ => { s.removalEffects with card.state := .absent }

/-- CARD_REMOVAL (R146): one release from asserted. -/
def execCardRemoval (s : State) : Host.Outcome State Fault Refusal :=
  if s.lines.cardDetect then s.answer s.withoutCard State.removed else s.event id

/-! ### Identification -/

/-- A failed identification exchange: another, up to three in all (R142). -/
def State.failIdentification (s : State) (failures : Nat) : State :=
  if failures + 1 < Config.maxAttempts then { s with card.state := .identifying (failures + 1) } else s.enterFault

/-- A successful identification exchange: the insertion reads begin (R142, R148). -/
def State.identified (s : State) (capacity : Nat) : State :=
  { s with card.state := .readingVolume, card.capacity := some capacity }.nextRead .header

/-- The end of an identification exchange (R142). -/
def State.identificationEnd (s : State) (failures : Nat) : ExchangeEnd → State
  | .answered size capacity =>
    if size = Config.blockBytes then s.identified capacity else s.failIdentification failures
  | _ => s.failIdentification failures

/-- IDENTIFICATION_EXCHANGE_END (R142): in IDENTIFYING. -/
def execIdentificationExchangeEnd (r : ExchangeEnd) (s : State) : Host.Outcome State Fault Refusal :=
  s.event fun s =>
    match s.card.state with
    | .identifying n => s.identificationEnd n r
    | _ => s

/-! ### The insertion reads -/

/-- Whether this insertion read is in flight (R144). -/
def State.isReading (s : State) (r : InsertionRead) : Bool :=
  decide (s.card.state = .readingVolume) && match s.card.holder with
    | .volumeRead r' _ => decide (r' = r)
    | _ => false

/-- The end of an insertion read: what it read, or a failed attempt (R144). -/
def State.readEnd (s : State) (r : InsertionRead) (e : TransferEnd) (take : State → State) : State :=
  if s.isReading r then
    match e with
    | .complete => take s
    | .error => s.failAttempt
  else s

/-- The volume header read: kept whole and judged (R148). -/
def State.takeHeader (s : State) : State :=
  let b := Memory.readBlocks s.card.medium 0 1
  match parseHeader (s.card.capacity.getD 0) b with
  | none => s.enterFault
  | some (sa, sb) =>
    { s with card.header := some b, card.scratchA := some sa, card.scratchB := some sb }.nextRead .settings

/-- VOLUME_HEADER_READ_END (R148). -/
def execVolumeHeaderReadEnd (r : TransferEnd) (s : State) : Host.Outcome State Fault Refusal :=
  s.event fun s => s.readEnd .header r State.takeHeader

/-- The settings record read (R149, R190). -/
def State.takeSettings (s : State) : State :=
  let p := parseSettings (Memory.readBlocks s.card.medium 1 1)
  s.putSettings p.1 p.2

/-- SETTINGS_READ_END (R149). -/
def execSettingsReadEnd (r : TransferEnd) (s : State) : Host.Outcome State Fault Refusal :=
  s.event fun s => s.readEnd .settings r State.takeSettings

/-- The catalogue read (R150). -/
def State.takeCatalogue (s : State) : State :=
  s.putCatalogue (parseCatalogue (s.card.capacity.getD 0) (Memory.readBlocks s.card.medium 2 13))

/-- CATALOGUE_READ_END (R150). -/
def execCatalogueReadEnd (r : TransferEnd) (s : State) : Host.Outcome State Fault Refusal :=
  s.event fun s => s.readEnd .catalogue r State.takeCatalogue

/-- The volume state block read (R151). -/
def State.takeVolumeState (s : State) : State :=
  s.finishInsertion ((parseVolumeState (Memory.readBlocks s.card.medium 15 1)).getD VolumeRecord.unknown)

/-- VOLUME_STATE_READ_END (R151, R152). -/
def execVolumeStateReadEnd (r : TransferEnd) (s : State) : Host.Outcome State Fault Refusal :=
  s.event fun s => s.readEnd .volumeState r State.takeVolumeState

/-! ### Timeout and re-identification -/

/-- The state REINIT returns to from a timed-out transfer (R145). -/
def CardState.reinitBack : CardState → ReinitReturn
  | .readingVolume => .readingVolume
  | _ => .ready

/-- TRANSFER_TIMEOUT (R144, R145): while a transfer is in flight; a write is cut off. -/
def execTransferTimeout (s : State) : Host.Outcome State Fault Refusal :=
  s.event fun s =>
    if s.transferring then { s.cutWrite with card.state := .reinit s.card.state.reinitBack 0 } else s

/-- The card state after a successful re-identification (R145). -/
def ReinitReturn.cardState : ReinitReturn → CardState
  | .readingVolume => .readingVolume
  | .ready => .ready

/-- The card's bytes with block 0 changed by other means, where it was (log 25). -/
def changeBlock0 (m : Memory) : Option (List Byte) → Memory
  | none => m
  | some b => Memory.writeBytes m 0 (padTo Config.blockBytes b)

/-- Whether block 0 equals the kept header, or none is kept (R145). -/
def State.headerAgrees (s : State) : Bool :=
  match s.card.header with
  | none => true
  | some h => decide (Memory.readBlocks s.card.medium 0 1 = h)

/-- The end of a re-identification attempt (R145). The kept capacity stands (log 37). -/
def State.reinitEnd (s : State) (back : ReinitReturn) (failures : Nat) : ReinitEnd → State
  | .failed =>
    if failures + 1 < Config.maxAttempts then { s with card.state := .reinit back (failures + 1) } else s.enterFault
  | .block0Read changed =>
    let s := { s with card.medium := changeBlock0 s.card.medium changed }
    if s.headerAgrees then { s with card.state := back.cardState }.failAttempt else s.enterFault

/-- REINIT_ATTEMPT_END (R145): in REINIT. The holder's failed attempt is taken at its success (R144). -/
def execReinitAttemptEnd (r : ReinitEnd) (s : State) : Host.Outcome State Fault Refusal :=
  s.event fun s =>
    match s.card.state with
    | .reinit back n => s.reinitEnd back n r
    | _ => s

/-! ### Sleep and wake -/

/-- Whether the sleep request is taken: the card is READY and idle, with nothing to grant and no pending write
(R153, R167, log 17). -/
def State.maySleep (s : State) : Bool :=
  decide (s.power.job = .idleSleep) && decide (s.card.state = .ready) && decide (s.card.holder = .none)
    && s.volume.pendingWrite.isNone && s.grant.isNone

/-- CARD_SLEEP (R153, R167): the card is ASLEEP and the power state QUIET. -/
def execCardSleep (s : State) : Host.Outcome State Fault Refusal :=
  s.event fun s =>
    if s.maySleep then { s with card.state := .asleep, power.state := .quiet, power.job := .none } else s

/-- WAKE_EXCHANGE_END (R153): in WAKING. A failed wake counts in REINIT (R145); deferred mount requests are decided at
the end of the command (R155). -/
def execWakeExchangeEnd (answered : Bool) (s : State) : Host.Outcome State Fault Refusal :=
  s.event fun s =>
    if s.card.state = .waking then
      { s with card.state := if answered then .ready else .reinit .ready 1 }
    else s

end Sys2Proof.Machine
end

