-- ==== Sys2Proof/Machine/DriveUnits.lean ====
section
/-! DEFINITION. The drives' own timers: spin-up, settle, swap interval (R30, R34, R157). -/

namespace Sys2Proof.Machine

/-- The spin-up timer of a drive expires (R30). -/
def State.spunUp (s : State) (d : Drive) : State :=
  match (s.drive d).spindle with
  | .spinningUp _ => s.setDrive d { s.drive d with spindle := .atSpeed }
  | _ => s

/-- SPIN_UP_EXPIRY (R30): while the drive is SPINNING_UP. -/
def execSpinUpExpiry (d : Drive) (s : State) : Host.Outcome State Fault Refusal := s.event fun s => s.spunUp d

/-- The settle timer of a drive expires: SETTLED, the held-key set emptied, requests for the cylinder (R34, R50). -/
def State.settle (s : State) (d : Drive) : State :=
  match (s.drive d).motion with
  | .moving _ => (s.setDrive d { s.drive d with motion := .settled, heldKeys := [] }).requestCylinder d
  | .settled => s

/-- SETTLE_EXPIRY (R34): while the drive is MOVING. -/
def execSettleExpiry (d : Drive) (s : State) : Host.Outcome State Fault Refusal := s.event fun s => s.settle d

/-- The swap interval of a drive expires: PRESENT, requests for the cylinder (R157). -/
def State.swapEnd (s : State) (d : Drive) : State :=
  match (s.drive d).media with
  | .swap _ => (s.setDrive d { s.drive d with media := .present }).requestCylinder d
  | _ => s

/-- SWAP_INTERVAL_EXPIRY (R157): while the drive is in SWAP. -/
def execSwapIntervalExpiry (d : Drive) (s : State) : Host.Outcome State Fault Refusal := s.event fun s => s.swapEnd d

end Sys2Proof.Machine
end

