-- ==== Sys2Proof/Machine/TrackCache.lean ====
section
/-! DEFINITION. The loader: a load's start, its probe, its body read, and its abort (R105 to R117). -/

namespace Sys2Proof.Machine

/-! ### The start -/

/-- Where a load reads a key and what it reads first: the place an overlay entry names, or a probe in the IMAGE area
(R107, R188). -/
def State.loadOp (s : State) (i : Fin 16) (k : Key) : LoadOp :=
  let overlay := match s.mountDrive k.image with
    | none => none
    | some d => if s.isOverlay k.image then ((s.drive d).overlayEntry k).map fun o => (d, o) else none
  match overlay with
  | some (d, o) =>
    { slot := i, area := .scratch, base := trackBlock (s.scratchBase d) 2 k, abort := false
      stage := .overlayHead 1 o.place o.generation }
  | none =>
    let base := match s.entry k.image with
      | none => 0
      | some e => trackBlock e.base e.heads k
    { slot := i, area := .image, base := base, abort := false, stage := .probe0 1 }

/-- A slot as its load starts (R105). -/
def Slot.loading (x : LoadEntry) : Slot where
  state := .loading
  key := some x.key
  record := none
  layout := none
  origin := .unknown
  context := some { kind := x.kind, drive := x.drive, abandoned := false }
  redirty := false
  attempts := 0

/-- A load started in a slot for the head entry; an evicted slot is freed first (R97, R105). -/
def State.startLoad (s : State) (i : Fin 16) (x : LoadEntry) (rest : List LoadEntry) : State :=
  let s := { s.free i with cache.loads := rest }
  let s := (s.setSlot i (Slot.loading x)).toFront i
  { s with card.holder := .loader (s.loadOp i x.key) }

/-- The slot a load takes: the lowest FREE one, else the eviction victim (R105). -/
def State.loadSlot (s : State) : Option (Fin 16) := s.freeSlot.or s.victim

/-- What the loader does at its grant, first row that holds (R105). -/
def State.loaderGranted (s : State) : State :=
  match s.cache.loads with
  | [] => s
  | x :: rest =>
    if s.isCached x.key then { s with cache.loads := rest }
    else match s.loadSlot with
      | some i => s.startLoad i x rest
      | none => if x.kind = .prefetch then { s with cache.loads := rest } else s

/-- LOAD_START (R105): when the arbiter grants the card to the loader (R126). -/
def execLoadStart (s : State) : Host.Outcome State Fault Refusal :=
  s.event fun s => if s.grant = some .loader then s.loaderGranted else s

/-! ### The reads -/

/-- The load whose transfer is in flight (R144). -/
def State.loadInFlight (s : State) : Option LoadOp :=
  match s.card.state, s.card.holder with
  | .ready, .loader op => some op
  | _, _ => none

/-- The load goes on with another read. -/
def State.loadGoesOn (s : State) (op : LoadOp) (stage : LoadStage) : State :=
  { s with card.holder := .loader { op with stage := stage } }

/-- Whether a first block is DAMAGED (R108). -/
def isDamaged (b : List Byte) : Bool := decide (placeClass b = .damaged)

/-- Whether a record length a header states is within range (R110). -/
def lengthGood (b : List Byte) : Bool :=
  decide (Config.minRecordBytes ≤ recordLength b) && decide (recordLength b ≤ Config.maxRecordBytes)

/-- The body read of a place starts, or its length is out of range and the load ends (R110), with no alert if it is
abandoned (log 22). -/
def State.startBody (s : State) (op : LoadOp) (place : Place) (head : List Byte) (other : Option (List Byte))
    (newest : Origin) : State :=
  if lengthGood head then s.loadGoesOn op (.body 1 place head other newest)
  else
    s.endLoad op.slot
      { record := none, origin := .at op.area place (headGeneration head), alert := some .recordBad, ofProbe := false }

/-- The course of a load after its probe (R109). -/
def State.chooseCourse (s : State) (op : LoadOp) (h0 h1 : List Byte) : State :=
  match placeClass h0, placeClass h1 with
  | .valid g0, .valid g1 =>
    if g0 < g1 then s.startBody op .p1 h1 (some h0) (.at op.area .p1 g1)
    else s.startBody op .p0 h0 (some h1) (.at op.area .p0 g0)
  | .valid g0, _ => s.startBody op .p0 h0 none (.at op.area .p0 g0)
  | _, .valid g1 => s.startBody op .p1 h1 none (.at op.area .p1 g1)
  | .blank, .blank => s.endLoad op.slot { record := some .empty, origin := .none, alert := none, ofProbe := true }
  | _, _ => s.endLoad op.slot { record := none, origin := .none, alert := none, ofProbe := true }

/-- The first block of a place, as it is read. -/
def State.readHead (s : State) (base : Nat) (place : Place) : List Byte :=
  Memory.readBlocks s.card.medium (placeBlock base place) 1

/-- A probe read of a load completes (R108, R109). -/
def State.probeRead (s : State) (op : LoadOp) : State :=
  match op.stage with
  | .probe0 _ =>
    let h0 := s.readHead op.base .p0
    (s.latchIf (isDamaged h0) .recordBad).loadGoesOn op (.probe1 1 h0)
  | .probe1 _ h0 =>
    let h1 := s.readHead op.base .p1
    (s.latchIf (isDamaged h1) .recordBad).chooseCourse op h0 h1
  | _ => s

/-- Which of a load's commands ends its transfer. -/
inductive LoadRead where
  | probe
  | overlayHead
  | body
  deriving DecidableEq, Repr

/-- The kind of read a load's stage is. -/
def LoadStage.read : LoadStage → LoadRead
  | .probe0 _ => .probe
  | .probe1 _ _ => .probe
  | .overlayHead _ _ _ => .overlayHead
  | .body _ _ _ _ _ => .body

/-- The end of a load's transfer: a load to be given up ends at this block boundary, else what was read is taken, or
the attempt has failed (R106, R116). -/
def State.loadReadEnd (s : State) (kind : LoadRead) (e : TransferEnd) (take : State → LoadOp → State) : State :=
  match s.loadInFlight with
  | none => s
  | some op =>
    if op.stage.read = kind then
      if op.abort then s.abortLoad op
      else match e with
        | .complete => take s op
        | .error => s.failAttempt
    else s

/-- PROBE_READ_END (R108): each of the two reads of a probe ends so (log 10). -/
def execProbeReadEnd (r : TransferEnd) (s : State) : Host.Outcome State Fault Refusal :=
  s.event fun s => s.loadReadEnd .probe r State.probeRead

/-- A record as read from a place: its first block and the blocks after it, to the length its header states (R110). -/
def State.readRecord (s : State) (base : Nat) (place : Place) (head : List Byte) : List Byte :=
  (head ++ Memory.readBlocks s.card.medium (placeBlock base place + 1) (blocksFor (recordLength head) - 1)).take
    (recordLength head)

/-- Whether a record's check passes (R110, R188). -/
def recordCheckPasses (bs : List Byte) : Bool := checkPasses bs (bs.length - 4)

/-- The record of a slot's key from bytes whose check passes, if it is well-formed (R19, R20). -/
def State.recordFor (s : State) (i : Fin 16) (bs : List Byte) : Option Record :=
  match (s.slot i).key with
  | none => none
  | some k => match s.entry k.image with
    | none => none
    | some e => parseRecord e k bs

/-- The end of a load whose record check has passed (R110). -/
def State.recordRead (s : State) (op : LoadOp) (place : Place) (head bs : List Byte) : State :=
  let r := s.recordFor op.slot bs
  s.endLoad op.slot
    { record := r, origin := .at op.area place (headGeneration head)
      alert := if r.isSome then none else some .recordBad, ofProbe := false }

/-- A record check has failed: the other VALID place is read, or the load ends without a record (R110). -/
def State.recordTorn (s : State) (op : LoadOp) (place : Place) (other : Option (List Byte)) (newest : Origin) :
    State :=
  match other with
  | some h =>
    let abandoned := (s.slot op.slot).context.any LoadContext.abandoned
    (s.latchIf (!abandoned) .recordBad).startBody op place.other h none newest
  | none =>
    s.endLoad op.slot { record := none, origin := newest, alert := some .recordBad, ofProbe := false }

/-- A body read completes (R110). -/
def State.bodyRead (s : State) (op : LoadOp) : State :=
  match op.stage with
  | .body _ place head other newest =>
    let bs := s.readRecord op.base place head
    if recordCheckPasses bs then s.recordRead op place head bs else s.recordTorn op place other newest
  | _ => s

/-- RECORD_READ_END (R110). -/
def execRecordReadEnd (r : TransferEnd) (s : State) : Host.Outcome State Fault Refusal :=
  s.event fun s => s.loadReadEnd .body r State.bodyRead

/-- The first block of an overlay place read: VALID with the entry's generation, or the load ends (R111). -/
def State.overlayRead (s : State) (op : LoadOp) : State :=
  match op.stage with
  | .overlayHead _ place generation =>
    let h := s.readHead op.base place
    if placeClass h = .valid generation then s.startBody op place h none (.at op.area place generation)
    else
      s.endLoad op.slot
        { record := none, origin := .at op.area place generation, alert := some .recordBad, ofProbe := true }
  | _ => s

/-- OVERLAY_PLACE_READ_END (R111). -/
def execOverlayPlaceReadEnd (r : TransferEnd) (s : State) : Host.Outcome State Fault Refusal :=
  s.event fun s => s.loadReadEnd .overlayHead r State.overlayRead

/-- LOAD_ABORT (R116): a load to be given up reaches its block boundary. -/
def execLoadAbort (s : State) : Host.Outcome State Fault Refusal :=
  s.event fun s =>
    match s.loadInFlight with
    | none => s
    | some op => if op.abort then s.abortLoad op else s

end Sys2Proof.Machine
end

