-- ==== Sys2Proof/Machine/Flusher.lean ====
section
/-! DEFINITION. The Flusher: start, probe, write, completion and failure (R129 to R137). -/

namespace Sys2Proof.Machine

/-! ### The start -/

/-- Where a flush writes: its area, the drive whose scratch area it is, the first block of place 0, and the origin its
target is taken from (R130). None for an image that is not flushed. -/
def State.flushPlan (s : State) (x : Slot) (k : Key) : Option (Area × Option Drive × Nat × Origin) :=
  match s.entry k.image with
  | none => none
  | some e =>
    match e.policy with
    | .direct => some (.image, none, trackBlock e.base e.heads k, x.origin)
    | .overlay =>
      match s.mountDrive k.image with
      | none => none
      | some d =>
        let origin := match (s.drive d).overlayEntry k with
          | none => Origin.none
          | some o => .at .scratch o.place o.generation
        some (.scratch, some d, trackBlock (s.scratchBase d) 2 k, origin)
    | .locked => none

/-- The target place and generation of a flush; none at the largest generation, and none while the origin is UNKNOWN
(R132). -/
def flushTarget : Origin → Option (Place × Nat)
  | .none => some (.p0, 1)
  | .unknown => none
  | .at _ place generation =>
    if generation = Config.maxGeneration then none else some (place.other, generation + 1)

/-- The target is known: it is filled into the snapshot and the write begins, or the flush fails at once (R132,
R133). -/
def State.aimFlush (s : State) (op : FlushOp) (origin : Origin) : State :=
  match flushTarget origin with
  | none => s.failFlush op
  | some (place, generation) =>
    { s with
      card.buffer := s.card.buffer.map fun bs => fillTarget bs op.key.cylinder op.key.head generation
      card.holder := .flusher { op with stage := .write place generation } }

/-- A slot as its flush starts (R129). -/
def Slot.flushing (x : Slot) : Slot := { x with state := .writing, redirty := false, attempts := 1 }

/-- A flush started on the queue head (R129, R130, R131). -/
def State.startFlush (s : State) (i : Fin 16) (rest : List (Fin 16)) (k : Key) (r : Record)
    (plan : Area × Option Drive × Nat × Origin) : State :=
  let op : FlushOp :=
    { slot := i, key := k, area := plan.1, drive := plan.2.1, base := plan.2.2.1, stage := .probe0 1 }
  let s := (s.departQueue rest).setSlot i (s.slot i).flushing
  let s := { s with card.buffer := some (serialise r k.cylinder k.head 0), card.holder := .flusher op }
  if plan.2.2.2 = .unknown then s else s.aimFlush op plan.2.2.2

/-- What the flusher does at its grant (R129). -/
def State.flusherGranted (s : State) : State :=
  match s.commit.queue with
  | [] => s
  | i :: rest =>
    match (s.slot i).key, (s.slot i).record with
    | some k, some r =>
      match s.flushPlan (s.slot i) k with
      | none => s
      | some plan => s.startFlush i rest k r plan
    | _, _ => s

/-- FLUSH_START (R129): when the arbiter grants the card to the flusher (R126). -/
def execFlushStart (s : State) : Host.Outcome State Fault Refusal :=
  s.event fun s => if s.grant = some .flusher then s.flusherGranted else s

/-! ### The probe -/

/-- The flush whose transfer is in flight (R144). -/
def State.flushInFlight (s : State) : Option FlushOp :=
  match s.card.state, s.card.holder with
  | .ready, .flusher op => some op
  | _, _ => none

/-- The flush goes on with another read. -/
def State.flushGoesOn (s : State) (op : FlushOp) (stage : FlushStage) : State :=
  { s with card.holder := .flusher { op with stage := stage } }

/-- The origin a probe found: written into the slot, and the flush takes its target from it (R131, R132). -/
def State.foundOrigin (s : State) (op : FlushOp) (origin : Origin) : State :=
  (s.setSlot op.slot { s.slot op.slot with origin := origin }).aimFlush op origin

/-- The record check of the newer place has failed: the other place is the origin (R131). -/
def State.newerTorn (s : State) (op : FlushOp) (place : Place) (otherGeneration : Nat) : State :=
  (s.latch .recordBad).foundOrigin op (.at op.area place.other otherGeneration)

/-- Both places are VALID: the newer one's record is checked; a length out of range fails its check (R131, log 23). -/
def State.startCheck (s : State) (op : FlushOp) (place : Place) (head : List Byte) (otherGeneration : Nat) : State :=
  if lengthGood head then s.flushGoesOn op (.check 1 place head otherGeneration)
  else s.newerTorn op place otherGeneration

/-- The origin after the flusher's probe (R131). -/
def State.chooseOrigin (s : State) (op : FlushOp) (h0 h1 : List Byte) : State :=
  match placeClass h0, placeClass h1 with
  | .valid g0, .valid g1 => if g0 < g1 then s.startCheck op .p1 h1 g0 else s.startCheck op .p0 h0 g1
  | .valid g0, _ => s.foundOrigin op (.at op.area .p0 g0)
  | _, .valid g1 => s.foundOrigin op (.at op.area .p1 g1)
  | _, _ => s.foundOrigin op .none

/-- A read of the flusher's probe completes (R131). -/
def State.flushRead (s : State) (op : FlushOp) : State :=
  match op.stage with
  | .probe0 _ =>
    let h0 := s.readHead op.base .p0
    (s.latchIf (isDamaged h0) .recordBad).flushGoesOn op (.probe1 1 h0)
  | .probe1 _ h0 =>
    let h1 := s.readHead op.base .p1
    (s.latchIf (isDamaged h1) .recordBad).chooseOrigin op h0 h1
  | .check _ place head otherGeneration =>
    if recordCheckPasses (s.readRecord op.base place head) then
      s.foundOrigin op (.at op.area place (headGeneration head))
    else s.newerTorn op place otherGeneration
  | .write _ _ => s

/-- Whether a flush is writing its target. -/
def FlushStage.isWrite : FlushStage → Bool
  | .write _ _ => true
  | _ => false

/-- The end of a read of the flusher (R131). -/
def State.flushReadEnd (s : State) (e : TransferEnd) : State :=
  match s.flushInFlight with
  | none => s
  | some op =>
    if op.stage.isWrite then s
    else match e with
      | .complete => s.flushRead op
      | .error => s.failAttempt

/-- FLUSH_PROBE_READ_END (R131): each read of the flusher's probe, and of its record check, ends so (log 10). -/
def execFlushProbeReadEnd (r : TransferEnd) (s : State) : Host.Outcome State Fault Refusal :=
  s.event fun s => s.flushReadEnd r

/-! ### The write -/

/-- A track's entry added to an overlay table, or replaced (R134, R160). -/
def DriveUnit.putOverlay (u : DriveUnit) (k : Key) (place : Place) (generation : Nat) : DriveUnit :=
  { u with
    overlay := (u.overlay.filter fun o => !(decide (o.cylinder = k.cylinder) && decide (o.head = k.head)))
      ++ [{ cylinder := k.cylinder, head := k.head, place := place, generation := generation }] }

/-- The overlay table after a completed scratch write (R134). -/
def State.noteOverlay (s : State) (op : FlushOp) (place : Place) (generation : Nat) : State :=
  match op.drive with
  | none => s
  | some d => s.setDrive d ((s.drive d).putOverlay op.key place generation)

/-- A slot whose flush has completed (R134). -/
def Slot.flushed (x : Slot) (origin : Origin) : Slot :=
  { x with
    state := if x.redirty then .dirty else .clean
    origin := origin
    redirty := false
    attempts := 0 }

/-- The flush of a WRITING slot completes (R134). -/
def State.completeFlush (s : State) (op : FlushOp) (place : Place) (generation : Nat) : State :=
  let x := s.slot op.slot
  let s := (s.setSlot op.slot (x.flushed (.at op.area place generation))).noteOverlay op place generation
  if x.redirty then s.joinQueue op.slot else s

/-- The slot's part of a flush's completion (R134, R135). -/
def State.flushSlotDone (s : State) (op : FlushOp) (place : Place) (generation : Nat) : State :=
  match (s.slot op.slot).state with
  | .writing => s.completeFlush op place generation
  | .discarding => s.free op.slot
  | _ => s

/-- The card's bytes with a record laid into a place in whole blocks (R133). -/
def writePlace (m : Memory) (base : Nat) (place : Place) (bs : List Byte) : Memory :=
  Memory.writeBytes m (placeBlock base place * Config.blockBytes) (inBlocks bs)

/-- A flush's write completes (R133, R134). -/
def State.flushWritten (s : State) (op : FlushOp) (place : Place) (generation : Nat) : State :=
  let s := { s with card.medium := writePlace s.card.medium op.base place (s.card.buffer.getD []) }
  { s.flushSlotDone op place generation with card.holder := .none, card.buffer := none }

/-- FLUSH_WRITE_END (R134): while a flush's write is in flight. -/
def execFlushWriteEnd (s : State) : Host.Outcome State Fault Refusal :=
  s.event fun s =>
    match s.flushInFlight with
    | none => s
    | some op =>
      match op.stage with
      | .write place generation => s.flushWritten op place generation
      | _ => s

/-- FLUSH_ATTEMPT_FAILURE (R136): the card reports an error for a flush's write, which is cut off (R133). -/
def execFlushAttemptFailure (s : State) : Host.Outcome State Fault Refusal :=
  s.event fun s =>
    match s.flushInFlight with
    | none => s
    | some op => if op.stage.isWrite then s.cutWrite.failAttempt else s

end Sys2Proof.Machine
end

