-- ==== Sys2Proof/Machine/OperatorPanel.lean ====
section
/-! DEFINITION. The operator panel: keys, pages, BROWSE, SERVICE, the acknowledge (chapter 9). The key actions are
commands of their own; each names the keys it needs (log 24). -/

namespace Sys2Proof.Machine

/-! ### Keys (R175) -/

/-- A key of the panel. -/
def Panel.key (p : Panel) : PanelKey → KeyState
  | .prev => p.prev
  | .next => p.next
  | .enter => p.enter

/-- The panel with a key replaced. -/
def Panel.setKey (p : Panel) (k : PanelKey) (x : KeyState) : Panel :=
  match k with
  | .prev => { p with prev := x }
  | .next => { p with next := x }
  | .enter => { p with enter := x }

/-- No key has just been released as a single press. -/
def Panel.clearClicks (p : Panel) : Panel :=
  { p with prev.clicked := false, next.clicked := false, enter.clicked := false }

/-- Whether a key is pressed and may take part in an action (R175). -/
def KeyState.isLive (k : KeyState) : Bool := k.pressed && !k.stale

/-- Whether a key's present press may still be taken as a single action. -/
def KeyState.isFresh (k : KeyState) : Bool := k.isLive && !k.chorded && !k.used

/-- A key that becomes pressed (R175). -/
def KeyState.press (k : KeyState) : KeyState :=
  if k.pressed then k else { k with pressed := true, chorded := false, used := false, clicked := false }

/-- A key that becomes released: ordinary again; `single` is whether the page takes a single press (R175, R179). -/
def KeyState.release (k : KeyState) (single : Bool) : KeyState where
  pressed := false
  stale := false
  chorded := false
  used := false
  clicked := single && k.isFresh

/-- A chord begins when the second of PREV and NEXT becomes pressed (R175). -/
def Panel.formChord (p : Panel) : Panel :=
  if p.prev.isLive && p.next.isLive then { p with prev.chorded := true, next.chorded := true } else p

/-- Whether PREV and NEXT are both down as a chord whose action has not been taken. -/
def Panel.chordLive (p : Panel) : Bool :=
  p.prev.isLive && p.next.isLive && p.prev.chorded && p.next.chorded && !p.prev.used && !p.next.used

/-- A debounced change of a key (R175). -/
def Panel.debounce (p : Panel) (k : PanelKey) (closed : Bool) : Panel :=
  let p := p.clearClicks
  if closed then (p.setKey k (p.key k).press).formChord
  else p.setKey k ((p.key k).release (decide (p.page = .normal) && decide (k ≠ .enter)))

/-- KEY_DEBOUNCE (R175). -/
def execKeyDebounce (k : PanelKey) (closed : Bool) (s : State) : Host.Outcome State Fault Refusal :=
  s.event fun s => { s with panel := s.panel.debounce k closed }

/-! ### The display -/

/-- The blink phase turned: from dark to lit a new period starts, at the rate in force (R176). -/
def Panel.halfPeriod (p : Panel) (r : BlinkRate) : Panel :=
  if p.blinkLit then { p with blinkLit := false } else p.startBlink r

/-- Whether the page blinks (R176). -/
def Page.blinks (p : Page) : Bool := decide (p.kind = .browse) || decide (p.kind = .alert)

/-- BLINK_HALF_PERIOD (R176): on BROWSE and ALERT. -/
def execBlinkHalfPeriod (s : State) : Host.Outcome State Fault Refusal :=
  s.event fun s =>
    if s.panel.page.blinks then { s with panel := s.panel.halfPeriod s.settings.blink } else s

/-! ### NORMAL -/

/-- The page shown, with the keys' part in what brought it left to the end of the command. -/
def State.show (s : State) (p : Page) : State := { s with panel.page := p }

/-- BROWSE_ENTRY (R179): a single press of PREV or NEXT in NORMAL, the lock off. -/
def execBrowseEntry (s : State) : Host.Outcome State Fault Refusal :=
  s.event fun s =>
    if decide (s.panel.page = .normal) && !s.panel.lock && (s.panel.prev.clicked || s.panel.next.clicked) then
      s.show (.browse (s.drive s.panel.drive).mounted)
    else s

/-- SERVICE_ENTRY (R179): a chord held in NORMAL. -/
def execServiceEntry (s : State) : Host.Outcome State Fault Refusal :=
  s.event fun s =>
    if decide (s.panel.page = .normal) && s.panel.chordLive then s.show (.service .lock) else s

/-- PANEL_DRIVE_TOGGLE (R177): ENTER held in NORMAL, drive B's line not OFF, the lock off. One press toggles once. -/
def execPanelDriveToggle (s : State) : Host.Outcome State Fault Refusal :=
  s.event fun s =>
    if decide (s.panel.page = .normal) && s.panel.enter.isFresh && !s.panel.lock && !s.driveBOff then
      { s with panel.drive := otherDrive s.panel.drive, panel.enter.used := true }
    else s

/-! ### BROWSE (R180) -/

/-- The valid catalogue slots in ascending order. -/
def State.validSlots (s : State) : List Nat := (List.range 100).filter fun i => (s.entry i).isSome

/-- The next member of the ring forward: the first valid slot above the candidate, else "--"; from "--" the lowest
valid slot. -/
def ringNext (valid : List Nat) : Option Nat → Option Nat
  | none => valid.head?
  | some i => valid.find? fun j => decide (i < j)

/-- The next member of the ring back: the last valid slot below the candidate, else "--"; from "--" the highest valid
slot. -/
def ringPrev (valid : List Nat) : Option Nat → Option Nat
  | none => valid.getLast?
  | some i => (valid.reverse).find? fun j => decide (j < i)

/-- The candidate one place on (R180). -/
def ringStep (valid : List Nat) (forward : Bool) (c : Option Nat) : Option Nat :=
  if forward then ringNext valid c else ringPrev valid c

/-- The key that steps: NEXT forward, PREV back. -/
def stepKey (forward : Bool) : PanelKey := if forward then .next else .prev

/-- The present press of a key used up by its action. -/
def Panel.use (p : Panel) (k : PanelKey) : Panel := p.setKey k { p.key k with used := true }

/-- BROWSE_STEP (R180): NEXT or PREV pressed in BROWSE, not as a chord. -/
def execBrowseStep (forward : Bool) (s : State) : Host.Outcome State Fault Refusal :=
  s.event fun s =>
    match s.panel.page with
    | .browse c =>
      if (s.panel.key (stepKey forward)).isFresh then
        { s with panel := s.panel.use (stepKey forward) }.show (.browse (ringStep s.validSlots forward c))
      else s
    | _ => s

/-- ENTER's action on a candidate (R180). -/
def State.chooseCandidate (s : State) (c : Option Nat) : State :=
  if c = (s.drive s.panel.drive).mounted then s else s.requestMount { drive := s.panel.drive, slot := c }

/-- BROWSE_ENTER (R180): ENTER pressed in BROWSE. -/
def execBrowseEnter (s : State) : Host.Outcome State Fault Refusal :=
  s.event fun s =>
    match s.panel.page with
    | .browse c => if s.panel.enter.isFresh then (s.show .normal).chooseCandidate c else s
    | _ => s

/-- BROWSE_TIMEOUT (R178): in BROWSE. -/
def execBrowseTimeout (s : State) : Host.Outcome State Fault Refusal :=
  s.event fun s => if s.panel.page.kind = .browse then s.show .normal else s

/-! ### ALERT (R181) -/

/-- The shown latch cleared and both keys of the chord left stale (R181). -/
def State.acknowledge (s : State) (i : Fin 12) : State :=
  { s.clearLatch i with panel.prev.stale := true, panel.next.stale := true }

/-- ALERT_ACKNOWLEDGE (R181): a chord on ALERT. -/
def execAlertAcknowledge (s : State) : Host.Outcome State Fault Refusal :=
  s.event fun s =>
    if decide (s.panel.page = .alert) && s.panel.chordLive then
      match s.shownLatch with
      | none => s
      | some i => s.acknowledge i
    else s

/-! ### SERVICE (R182, R183) -/

/-- The item one place forward; the ring holds the lock item and End alone while the lock is on (R182, R184). -/
def ServiceItem.next (locked : Bool) : ServiceItem → ServiceItem
  | .lock => if locked then .endItem else .revert
  | .revert => .flush
  | .flush => .restart
  | .restart => .queueLength
  | .queueLength => .endItem
  | .endItem => .lock

/-- The item one place back (R182, R184). -/
def ServiceItem.prev (locked : Bool) : ServiceItem → ServiceItem
  | .lock => .endItem
  | .revert => .lock
  | .flush => .revert
  | .restart => .flush
  | .queueLength => .restart
  | .endItem => if locked then .lock else .queueLength

/-- The item one place on (R182). -/
def ServiceItem.step (i : ServiceItem) (locked forward : Bool) : ServiceItem :=
  if forward then i.next locked else i.prev locked

/-- SERVICE_STEP (R182): NEXT or PREV pressed in SERVICE, not as a chord. -/
def execServiceStep (forward : Bool) (s : State) : Host.Outcome State Fault Refusal :=
  s.event fun s =>
    match s.panel.page with
    | .service i =>
      if (s.panel.key (stepKey forward)).isFresh then
        { s with panel := s.panel.use (stepKey forward) }.show (.service (i.step s.panel.lock forward))
      else s
    | _ => s

/-- SERVICE_TIMEOUT (R178): in SERVICE. -/
def execServiceTimeout (s : State) : Host.Outcome State Fault Refusal :=
  s.event fun s => if s.panel.page.kind = .service then s.show .normal else s

/-- ENTER pressed on an item returns the page to NORMAL and acts (R183). -/
def State.serviceAction (s : State) (i : ServiceItem) (act : State → State) : State :=
  if decide (s.panel.page = .service i) && s.panel.enter.isFresh then act (s.show .normal) else s

/-- SERVICE_LOC (R183, R184). -/
def execServiceLoc (s : State) : Host.Outcome State Fault Refusal :=
  s.event fun s => s.serviceAction .lock fun s => { s with panel.lock := !s.panel.lock }

/-- rEV: the image mounted in the panel drive is requested again (R183). -/
def State.revert (s : State) : State :=
  match (s.drive s.panel.drive).mounted with
  | none => s
  | some i => s.requestMount { drive := s.panel.drive, slot := some i }

/-- SERVICE_REV (R183). -/
def execServiceRev (s : State) : Host.Outcome State Fault Refusal :=
  s.event fun s => s.serviceAction .revert State.revert

/-- SERVICE_FLSH (R183): FLSH becomes a requester of drain mode. -/
def execServiceFlsh (s : State) : Host.Outcome State Fault Refusal :=
  s.event fun s => s.serviceAction .flush fun s => { s with power.flsh := true }

/-- A restart request taken: the restart flag is set and its drain begins (R172). -/
def State.startRestart (s : State) : State :=
  let s := if s.power.state = .quiet then s.returnToRun.wakeCard else s.returnToRun
  { s with power.idle := 0, power.job := .restart .draining }

/-- A restart request (R172). -/
def State.requestRestart (s : State) : State :=
  if s.isFailing || s.power.job.isRestart then s else s.startRestart

/-- SERVICE_RST (R172, R183). -/
def execServiceRst (s : State) : Host.Outcome State Fault Refusal :=
  s.event fun s => s.serviceAction .restart State.requestRestart

/-- SERVICE_QUEUE_LENGTH (R183): no action but the return to NORMAL. -/
def execServiceQueueLength (s : State) : Host.Outcome State Fault Refusal :=
  s.event fun s => s.serviceAction .queueLength id

/-- SERVICE_END (R183): no action but the return to NORMAL. -/
def execServiceEnd (s : State) : Host.Outcome State Fault Refusal :=
  s.event fun s => s.serviceAction .endItem id

end Sys2Proof.Machine
end

