-- ==== Sys2Proof/Machine/PowerUnit.lean ====
section
/-! DEFINITION. The supply, PFW, and the idle counter (chapter 8). -/

namespace Sys2Proof.Machine

/-- The power-on values of everything volatile (R164 and the power-on columns of the chapters). The lines, the card's
bytes, the free values drawn and the queue stand as they were. -/
def State.powerOnValues (s : State) : State :=
  { State.reset with
    lines := s.lines
    card := { State.reset.card with medium := s.card.medium }
    freeCount := s.freeCount
    pending := s.pending }

/-- The card state at power-on (R141). -/
def State.cardAtPowerOn (s : State) : State :=
  { s with card.state := if s.lines.cardDetect then .settling else .absent }

/-- The state as power comes up, in EMERGENCY at once if PFW is asserted (R164). -/
def State.poweredUp (s : State) : State :=
  let s := s.powerOnValues.cardAtPowerOn
  if s.lines.pfw then s.enterEmergency else s

/-- POWER_ON (R164): every block takes its power-on values, whatever came before. -/
def execPowerOn (s : State) : Host.Outcome State Fault Refusal :=
  .next (react s.powerOnValues.cardAtPowerOn s.poweredUp)

/-- POWER_LOSS (R164): a write in flight is cut off, and everything volatile is lost (log 7). -/
def execPowerLoss (s : State) : Host.Outcome State Fault Refusal :=
  .next (if s.powered then { s.cutWrite.powerOnValues with powered := false } else s)

/-- PFW asserts (R169, R171). -/
def State.pfwAsserted (s : State) : State :=
  if s.isFailing then { s with power.recovery := false } else s.enterEmergency

/-- PFW_ASSERT (R169): one assertion from released. -/
def execPfwAssert (s : State) : Host.Outcome State Fault Refusal :=
  if s.lines.pfw then s.event id else s.answer { s with lines.pfw := true } State.pfwAsserted

/-- PFW releases: the 500 ms recovery timer starts in EMERGENCY and SPENT (R171). -/
def State.pfwReleased (s : State) : State := if s.isFailing then { s with power.recovery := true } else s

/-- PFW_RELEASE (R171). -/
def execPfwRelease (s : State) : Host.Outcome State Fault Refusal :=
  if s.lines.pfw then s.answer { s with lines.pfw := false } State.pfwReleased else s.event id

/-- The return to RUN from EMERGENCY or SPENT (R171): the emergency drain's request is withdrawn, the guard starts, an
ASLEEP card is woken, drives that are PRESENT and SETTLED request their keys, drive A first (log 38). -/
def State.recover (s : State) : State :=
  let s := { s with
    power := { s.power with state := .run, idle := 0, recovery := false, job := .none }
    cable.guard := true }
  (s.wakeCard.requestSettled .a).requestSettled .b

/-- RECOVERY_TIMER_EXPIRY (R171): while the timer runs. -/
def execRecoveryTimerExpiry (s : State) : Host.Outcome State Fault Refusal :=
  s.event fun s => if s.power.recovery && s.isFailing then s.recover else s

/-- The idle counter after one more second (R165). -/
def nextIdle (n : Nat) : Nat := min (n + 1) Config.maxIdle

/-- Whether the counter has reached the idle time; an idle time of 0 is never reached (R165). -/
def idleReached (idleSecs n : Nat) : Bool := decide (idleSecs ≠ 0) && decide (idleSecs ≤ n)

/-- DRAIN entered: the idle drain turns drain mode on (R166). -/
def State.enterDrain (s : State) : State := { s with power.state := .drain, power.job := .idle .draining }

/-- The idle counter advances (R165). -/
def State.advanceIdle (s : State) : State :=
  let n := nextIdle s.power.idle
  let s := { s with power.idle := n }
  if idleReached s.settings.idleSecs n then s.enterDrain else s

/-- IDLE_COUNTER_ADVANCE (R165): in RUN with no restart in progress and no cable activity. -/
def execIdleCounterAdvance (s : State) : Host.Outcome State Fault Refusal :=
  s.event fun s =>
    if decide (s.power.state = .run) && !s.power.job.isRestart && !s.activeLine then s.advanceIdle else s

end Sys2Proof.Machine
end

