-- ==== Sys2Proof/Machine/RotationUnit.lean ====
section
/-! DEFINITION. The rotation counter: cell times, arrivals at index, the end of the INDEX window, the hold limit
(chapter 3), and the cells captures record (R66). -/

namespace Sys2Proof.Machine

/-- An arrival at index: captures count a crossing, an ARMED hold begins (R45, R52, R66). -/
def State.arrive (s : State) : State :=
  let s := s.mapCapturing fun c => { c with crossings := c.crossings + 1 }
  match s.rotation.hold, s.selected, s.servedKey with
  | .armed, some d, some k => { s.joinHeld d k with rotation.hold := .held k d s.settings.holdLimitMs }
  | _, _, _ => s

/-- The counter advances by one cell (R45). -/
def State.advance (s : State) : State :=
  if s.rotation.position + 1 < s.rotation.cells then { s with rotation.position := s.rotation.position + 1 }
  else { s with rotation.position := 0 }.arrive

/-- Captures take the cells of one cell time (R66). -/
def State.recordCells (s : State) (wdata : List Bool) : State := s.mapCapturing (Capture.tick s.rotation.rate wdata)

/-- CELL_TIME (R45, R66): one cell time of the governing rate; a held counter stands still. -/
def execCellTime (wdata : List Bool) (s : State) : Host.Outcome State Fault Refusal :=
  s.event fun s => if s.isHeld then s else (s.recordCells wdata).advance

/-- The counter runs on to a position of the same revolution with no WDATA pulse (log 8). -/
def State.runTo (s : State) (p : Nat) : State :=
  { s.mapCapturing (Capture.silence s.rotation.rate (p - s.rotation.position)) with rotation.position := p }

/-- ARRIVAL_AT_INDEX (R45): the counter runs on to its last position and passes to 0 (log 8). -/
def execArrivalAtIndex (s : State) : Host.Outcome State Fault Refusal :=
  s.event fun s =>
    if s.isHeld then s else ((s.runTo (s.rotation.cells - 1)).recordCells []).advance

/-- The first position past the INDEX window (R49). -/
def windowEnd (cells : Nat) : Nat := (cells + 49) / 50

/-- INDEX_WINDOW_END (R49): from inside the window the counter runs on to its end (log 8). -/
def execIndexWindowEnd (s : State) : Host.Outcome State Fault Refusal :=
  s.event fun s =>
    if s.isHeld || decide (s.rotation.cells ≤ s.rotation.position * 50) then s
    else s.runTo (min (windowEnd s.rotation.cells) (s.rotation.cells - 1))

/-- HOLD_LIMIT_EXPIRY (R55): while a hold is in progress. -/
def execHoldLimitExpiry (s : State) : Host.Outcome State Fault Refusal :=
  s.event fun s => if s.isHeld then { s.latch .late with rotation.hold := .none } else s

end Sys2Proof.Machine
end

