-- ==== Sys2Proof/Machine/TrackMerge.lean ====
section
/-! DEFINITION. The Track Merge: a waiting capture applied to the slot that holds its key (R72 to R75, R89). -/

namespace Sys2Proof.Machine

/-- A merge makes a CLEAN or FAILED slot DIRTY, and sets the redirty flag of a WRITING one (R89). -/
def Slot.merged (x : Slot) (r : Record) : Slot :=
  { x with
    record := some r
    layout := r.layout
    state := match x.state with
      | .clean | .failed => .dirty
      | st => st
    redirty := x.redirty || decide (x.state = .writing) }

/-- Whether the slot joins the commit queue at a merge (R89, R120). -/
def SlotState.joinsAtMerge : SlotState → Bool
  | .clean | .failed => true
  | _ => false

/-- A successful merge on a slot (R74, R89). -/
def State.mergeRecord (s : State) (i : Fin 16) (r : Record) : State :=
  let joins := (s.slot i).state.joinsAtMerge
  let s := (s.setSlot i ((s.slot i).merged r)).toFront i
  if joins then s.joinQueue i else s

/-- The result of a classification applied (R75). -/
def State.applyMerge (s : State) (i : Fin 16) : MergeResult → State
  | .record r demoted => (s.mergeRecord i r).latchIf demoted .demoted
  | .discard => s.latch .writeLost

/-- The target of a merge: none for a FAILED slot (R75). -/
def Slot.mergeTarget (x : Slot) : Option Record := if x.state = .failed then none else x.record

/-- Whether the other buffer must merge first: it holds the same key with a lower release order (R72). -/
def State.mustWait (s : State) (b : BufferId) (r : Released) : Bool :=
  match (s.buffer (otherBuffer b)).released? with
  | none => false
  | some r' => decide (r'.capture.key = r.capture.key) && decide (r'.order < r.order)

/-- A waiting capture whose key is resident in a slot is classified and applied; its buffer is EMPTY again (R75). -/
def State.mergeInto (s : State) (b : BufferId) (r : Released) (i : Fin 16) : State :=
  match s.entry r.capture.key.image with
  | none => s
  | some e =>
    (s.applyMerge i (classify e (s.slot i).mergeTarget ((s.slot i).layout.getD []) r)).setBuffer b .empty

/-- The course of a waiting buffer (R72). -/
def State.mergeBuffer (s : State) (b : BufferId) : State :=
  match s.buffer b with
  | .waitingMerge r =>
    if s.mustWait b r then s
    else match s.residentSlot r.capture.key with
      | none => s
      | some i => s.mergeInto b r i
  | _ => s

/-- MERGE (R75): while the buffer is WAITING_MERGE and its key is resident. -/
def execMerge (b : BufferId) (s : State) : Host.Outcome State Fault Refusal := s.event fun s => s.mergeBuffer b

end Sys2Proof.Machine
end

