-- ==== Sys2Proof/Machine/VolumeUnit.lean ====
section
/-! DEFINITION. The volume state write (R162, R163). -/

namespace Sys2Proof.Machine

/-- Whether a target of CLEAN is kept at the grant (R163). -/
def State.mayClose (s : State) : Bool := s.commit.queue.isEmpty && !s.anyWriting

/-- The state written for a target (R163). The queue's test is made for a target of CLEAN alone, not for the recorded
state where that is CLEAN (log 41). -/
def State.writtenState (s : State) (recorded : VolumeState) : WriteTarget → VolumeState
  | .recorded => recorded
  | .open => .open
  | .clean => if s.mayClose then .clean else .open

/-- The content fixed at the grant (R163). -/
def State.writeContent (s : State) (r : VolumeRecord) (t : WriteTarget) : VolumeRecord where
  state := s.writtenState r.state t
  slotA := s.driveA.mounted
  slotB := s.driveB.mounted
  count := r.count + 1

/-- Whether the Power Unit is told that its CLEAN write is made as OPEN (R163). -/
def State.closeRefused (s : State) (t : WriteTarget) : Bool :=
  decide (t = .clean) && !s.mayClose && s.power.job.isClosing

/-- A volume state write granted (R163). A close that is made as OPEN goes back to its drain (R167, R170, R172). -/
def State.startVolumeWrite (s : State) (r : VolumeRecord) (t : WriteTarget) : State :=
  { s with
    card.holder := .volumeWrite (s.writeContent r t) 1
    volume.pendingWrite := none
    power.job := if s.closeRefused t then s.power.job.redraining else s.power.job }

/-- What Volume does at its grant (R163). -/
def State.volumeGranted (s : State) : State :=
  match s.volume.record, s.volume.pendingWrite with
  | some r, some t => s.startVolumeWrite r t
  | _, _ => s

/-- VOLUME_STATE_WRITE_START (R163): when the arbiter grants the card to Volume for its pending write (R126). -/
def execVolumeStateWriteStart (s : State) : Host.Outcome State Fault Refusal :=
  s.event fun s => if s.grant = some .volume then s.volumeGranted else s

/-- A volume state write completes: the record takes what was written, and a close is done (R163, R167), even one that
was asked for after this write was granted (log 15). -/
def State.volumeWritten (s : State) (c : VolumeRecord) : State :=
  let s := { s with
    card.medium := Memory.writeBytes s.card.medium (15 * Config.blockBytes) (volumeStateBlock c)
    card.holder := .none
    volume.record := some c }
  if decide (c.state = .clean) && s.power.job.isClosing then s.afterClose else s

/-- The end of a volume state write (R163). -/
def State.volumeWriteEnd (s : State) (e : TransferEnd) : State :=
  match s.card.state, s.card.holder with
  | .ready, .volumeWrite c _ =>
    match e with
    | .complete => s.volumeWritten c
    | .error => s.cutWrite.failAttempt
  | _, _ => s

/-- VOLUME_STATE_WRITE_END (R163). -/
def execVolumeStateWriteEnd (r : TransferEnd) (s : State) : Host.Outcome State Fault Refusal :=
  s.event fun s => s.volumeWriteEnd r

end Sys2Proof.Machine
end

