-- ==== Sys2Proof/Machine/Dispatch.lean ====
section
/-! DEFINITION. One arm per command: the meaning of each row of spec/opcode_table.json. -/

namespace Sys2Proof.Machine

/-- What a command does to everything but the queue. -/
def exec (i : Instr) (s : State) : Host.Outcome State Fault Refusal :=
  match i with
  | .powerOn => Sys2Proof.Machine.execPowerOn s
  | .powerLoss => Sys2Proof.Machine.execPowerLoss s
  | .selectLineChange sel0 sel1 sel2 sel3 => Sys2Proof.Machine.execSelectLineChange sel0 sel1 sel2 sel3 s
  | .motorLineChange mot0 mot1 => Sys2Proof.Machine.execMotorLineChange mot0 mot1 s
  | .step dir => Sys2Proof.Machine.execStep dir s
  | .sideChange side => Sys2Proof.Machine.execSideChange side s
  | .wgateAssert => Sys2Proof.Machine.execWgateAssert s
  | .wgateRelease => Sys2Proof.Machine.execWgateRelease s
  | .pfwAssert => Sys2Proof.Machine.execPfwAssert s
  | .pfwRelease => Sys2Proof.Machine.execPfwRelease s
  | .recoveryTimerExpiry => Sys2Proof.Machine.execRecoveryTimerExpiry s
  | .cardDetectAssert card => Sys2Proof.Machine.execCardDetectAssert card s
  | .debounceExpiry => Sys2Proof.Machine.execDebounceExpiry s
  | .cardRemoval => Sys2Proof.Machine.execCardRemoval s
  | .spinUpExpiry d => Sys2Proof.Machine.execSpinUpExpiry d s
  | .settleExpiry d => Sys2Proof.Machine.execSettleExpiry d s
  | .swapIntervalExpiry d => Sys2Proof.Machine.execSwapIntervalExpiry d s
  | .holdLimitExpiry => Sys2Proof.Machine.execHoldLimitExpiry s
  | .writeGuardExpiry => Sys2Proof.Machine.execWriteGuardExpiry s
  | .arrivalAtIndex => Sys2Proof.Machine.execArrivalAtIndex s
  | .indexWindowEnd => Sys2Proof.Machine.execIndexWindowEnd s
  | .idleCounterAdvance => Sys2Proof.Machine.execIdleCounterAdvance s
  | .identificationExchangeEnd r => Sys2Proof.Machine.execIdentificationExchangeEnd r s
  | .volumeHeaderReadEnd r => Sys2Proof.Machine.execVolumeHeaderReadEnd r s
  | .settingsReadEnd r => Sys2Proof.Machine.execSettingsReadEnd r s
  | .catalogueReadEnd r => Sys2Proof.Machine.execCatalogueReadEnd r s
  | .volumeStateReadEnd r => Sys2Proof.Machine.execVolumeStateReadEnd r s
  | .transferTimeout => Sys2Proof.Machine.execTransferTimeout s
  | .reinitAttemptEnd r => Sys2Proof.Machine.execReinitAttemptEnd r s
  | .cardSleep => Sys2Proof.Machine.execCardSleep s
  | .wakeExchangeEnd answered => Sys2Proof.Machine.execWakeExchangeEnd answered s
  | .loadStart => Sys2Proof.Machine.execLoadStart s
  | .probeReadEnd r => Sys2Proof.Machine.execProbeReadEnd r s
  | .recordReadEnd r => Sys2Proof.Machine.execRecordReadEnd r s
  | .overlayPlaceReadEnd r => Sys2Proof.Machine.execOverlayPlaceReadEnd r s
  | .loadAbort => Sys2Proof.Machine.execLoadAbort s
  | .merge buf => Sys2Proof.Machine.execMerge buf s
  | .flushStart => Sys2Proof.Machine.execFlushStart s
  | .flushProbeReadEnd r => Sys2Proof.Machine.execFlushProbeReadEnd r s
  | .flushWriteEnd => Sys2Proof.Machine.execFlushWriteEnd s
  | .flushAttemptFailure => Sys2Proof.Machine.execFlushAttemptFailure s
  | .volumeStateWriteStart => Sys2Proof.Machine.execVolumeStateWriteStart s
  | .volumeStateWriteEnd r => Sys2Proof.Machine.execVolumeStateWriteEnd r s
  | .keyDebounce k closed => Sys2Proof.Machine.execKeyDebounce k closed s
  | .blinkHalfPeriod => Sys2Proof.Machine.execBlinkHalfPeriod s
  | .browseEntry => Sys2Proof.Machine.execBrowseEntry s
  | .browseStep forward => Sys2Proof.Machine.execBrowseStep forward s
  | .browseEnter => Sys2Proof.Machine.execBrowseEnter s
  | .browseTimeout => Sys2Proof.Machine.execBrowseTimeout s
  | .serviceEntry => Sys2Proof.Machine.execServiceEntry s
  | .serviceStep forward => Sys2Proof.Machine.execServiceStep forward s
  | .serviceTimeout => Sys2Proof.Machine.execServiceTimeout s
  | .serviceLoc => Sys2Proof.Machine.execServiceLoc s
  | .serviceRev => Sys2Proof.Machine.execServiceRev s
  | .serviceFlsh => Sys2Proof.Machine.execServiceFlsh s
  | .serviceRst => Sys2Proof.Machine.execServiceRst s
  | .serviceQueueLength => Sys2Proof.Machine.execServiceQueueLength s
  | .serviceEnd => Sys2Proof.Machine.execServiceEnd s
  | .panelDriveToggle => Sys2Proof.Machine.execPanelDriveToggle s
  | .alertAcknowledge => Sys2Proof.Machine.execAlertAcknowledge s
  | .cellTime wdata => Sys2Proof.Machine.execCellTime wdata s

end Sys2Proof.Machine
end

