-- ==== Sys2Proof/Machine/Outputs.lean ====
section
/-! DEFINITION. The outputs, read off State (log 27): the five cable outputs (chapters 2 and 3), true for asserted, and
the four digits of the panel with their points (chapter 9). -/

namespace Sys2Proof.Machine

/-! ### The cable -/

/-- An output of the selected drive: released without supply and with no selection (R23). -/
def State.output (s : State) (f : Drive → Bool) : Bool :=
  s.powered && match s.selected with
    | none => false
    | some d => f d

/-- The power states in which INDEX and RDATA may be driven (R49, R61). -/
def State.turnsOutward (s : State) : Bool := !s.isFailing

/-- Whether the counter stands in the INDEX window (R49). -/
def State.inIndexWindow (s : State) : Bool := decide (s.rotation.position * 50 < s.rotation.cells)

/-- INDEX (R49), after a rescale too (R48, log 33). -/
def State.index (s : State) : Bool :=
  s.output fun d =>
    s.inIndexWindow && (s.drive d).isPresent && (s.drive d).isAtSpeed && !s.isHeld && s.turnsOutward

/-- TRK0 (R36). -/
def State.trk0 (s : State) : Bool := s.output fun d => decide ((s.drive d).cylinder = 0)

/-- WPROT on the cable (R38). -/
def State.wprotLine (s : State) : Bool := s.output s.wprot

/-- LINE34 (R37). -/
def State.line34 (s : State) : Bool :=
  s.output fun d =>
    match s.settings.line34 with
    | .ready =>
      (s.drive d).isPresent && (s.drive d).isAtSpeed
        && (decide (s.power.state = .run) || decide (s.power.state = .quiet))
    | .diskchg => (s.drive d).diskChange

/-- The record the synthesizer serves for a drive with an image; a track it has none for is served as an EMPTY one
(R58, R59, R60). -/
def State.servedRecord (s : State) (k : Key) : Record := (s.recordOf k).getD .empty

/-- The cells of the served content, position 0 first; none for an image with no entry (R58). -/
def State.servedCells (s : State) (d : Drive) : List Bool :=
  match s.keyOf d with
  | none => []
  | some k =>
    match s.entry k.image with
    | none => []
    | some e => (s.servedRecord k).cellsOf e

/-- Whether RDATA carries the served content (R61). -/
def State.streams (s : State) : Bool :=
  s.output fun d => (s.drive d).qualifies && !s.lines.wgate && !s.isHeld && s.turnsOutward

/-- The cell RDATA emits in the present cell time: that at the counter's position (R58, R61, R62). -/
def State.rdata (s : State) : Bool :=
  s.streams && s.output fun d => (s.servedCells d).getD s.rotation.position false

/-! ### The panel -/

/-- The two halves of a number shown as two digits. -/
def twoDigits (n : Nat) : String := toString (n / 10 % 10) ++ toString (n % 10)

/-- A drive's digit (R179). -/
def driveDigit : Drive → String
  | .a => "A"
  | .b => "b"

/-- A catalogue slot, or "--" (R179, R180). -/
def slotDigits : Option Nat → String
  | none => "--"
  | some i => twoDigits i

/-- Digits 3 and 4 of NORMAL (R179). -/
def State.normalDigits (s : State) : String :=
  match s.card.state with
  | .absent | .settling => "nc"
  | .identifying _ | .readingVolume => "In"
  | .fault => "Fl"
  | _ => slotDigits (s.drive s.panel.drive).mounted

/-- The text of a service item (R182); "LOC" and the others of three letters stand in the first three digits. -/
def State.itemText (s : State) : ServiceItem → String
  | .lock => if s.panel.lock then "ULOC" else "LOC "
  | .revert => "rEV "
  | .flush => "FLSH"
  | .restart => "rSt "
  | .queueLength => "q " ++ twoDigits s.commit.queue.length
  | .endItem => "End "

/-- Two digits blank while a blinking group is dark (R176). -/
def State.blinking (s : State) (text dark : String) : String := if s.panel.blinkLit then text else dark

/-- The four digits (R176, R179 to R182); dark without supply. -/
def State.digits (s : State) : String :=
  if !s.powered then "    "
  else match s.panel.page with
    | .normal => driveDigit s.panel.drive ++ " " ++ s.normalDigits
    | .browse c => driveDigit s.panel.drive ++ " " ++ s.blinking (slotDigits c) "  "
    | .alert =>
      match s.shownLatch with
      | none => "    "
      | some i => s.blinking ("E " ++ twoDigits (i.val + 1)) "    "
    | .service i => s.itemText i

/-- The decimal point of digit 2: the panel drive is selected on the cable (R176). -/
def State.point2 (s : State) : Bool := s.powered && decide (s.selected = some s.panel.drive)

/-- The decimal point of digit 4: a card transfer is in flight (R144, R176). -/
def State.point4 (s : State) : Bool := s.powered && s.transferring

end Sys2Proof.Machine
end

