-- ==== Sys2Proof/WellFormed.lean ====
section
/-! DEFINITION. Which commands are well formed: the operands' checks. `exec` gives every command a meaning; these are
the operands the outside world can send. -/

namespace Sys2Proof

/-- The operands a command may carry: a card's bytes in canonical form (log 5); a 32-bit block size and capacity
(R142); block 0 as one whole block (R144, R145); at most four cell times of the capture frame's rate in one of the
governing rate, since the rates are 250, 500 and 1000 kcells/s (R2, R66). -/
def Instr.wf : Instr → Bool
  | .cardDetectAssert card => Machine.Memory.wf card.bytes
  | .identificationExchangeEnd (.answered size cap) => decide (size < 2 ^ 32) && decide (cap < 2 ^ 32)
  | .reinitAttemptEnd (.block0Read (some b)) => b.length == Config.blockBytes
  | .cellTime wdata => decide (wdata.length ≤ 4)
  | _ => true

end Sys2Proof
end

