-- ==== Sys2Proof/Safety.lean ====
section
/-! DEFINITION. What it is for a run to be safe, and the laws of State that statements name: what stands at the end of
every command, and the invariants of the cache, the load list, the rotation and the settings. -/

namespace Sys2Proof.Machine

/-! ### Running -/

/-- A command answers a next state. -/
def Completes (c : Instr) (s : State) : Prop := ∃ t, exec c s = .next t

/-- Every waiting command is well formed. -/
def State.queueWf (s : State) : Bool := s.pending.all Instr.wf

/-- A step answers a next state. -/
def StepCompletes (s : State) : Prop := ∃ t, step s = .next t

/-- The supply is up, no mount request waits for the card to leave WAKING (R155), and no restart is in progress
(R172), so that no mount changes and nothing is discarded but by the command itself. -/
abbrev State.steady (s : State) : Prop :=
  s.powered = true ∧ s.volume.deferred = [] ∧ s.power.job.isRestart = false

/-! ### Writes that are ended -/

/-- Some buffer is CAPTURING. -/
def State.isCapturing (s : State) : Bool := s.capture.buf1.isCapturing || s.capture.buf2.isCapturing

/-- The admitted assertion of `s` is ended in `t`: no longer admitted, its capture discarded with WRITE_LOST if it held
one (R41, R42, R169). -/
def WriteEnded (s t : State) : Prop :=
  t.cable.admitted = none ∧ t.isCapturing = false ∧ (s.isCapturing = true → t.isLatched .writeLost = true)

/-- The assertion of `s` is ended in `t` by cable fault (a) or (d) (R41, R42). -/
def WriteFaulted (s t : State) : Prop := t.isLatched .cableFault = true ∧ WriteEnded s t

/-! ### What stands at the end of every command -/

/-- Each spindle agrees with its motor demand and the power state (R30, R31). -/
def State.spindlesFollow (s : State) : Prop :=
  ∀ d, (s.drive d).spindle = .stopped ↔ s.isFailing = true ∨ s.motorDemand d = false

/-- The governing track is that of the served key (R46). -/
def State.governingFollows (s : State) : Prop :=
  ∀ g, s.governing = some g → g = (s.rotation.cells, s.rotation.rate)

/-- The hold state agrees with the drives: a hold in progress is on the served key of its drive, which qualifies and
is not resident, and the key is in the drive's held-key set; with none in progress the state is ARMED exactly while
R51 says so (R51, R53, R54). -/
def State.holdFollows (s : State) : Prop :=
  match s.rotation.hold with
  | .held k d _ =>
    s.selected = some d ∧ s.servedKey = some k ∧ (s.drive d).qualifies = true ∧ s.isKeyResident k = false
      ∧ k ∈ (s.drive d).heldKeys
  | .armed => s.armable = true
  | .none => s.armable = false

/-- An admitted assertion's drive is selected (R42). -/
def State.admissionFollows (s : State) : Prop := ∀ a, s.cable.admitted = some a → s.selected = some a.drive

/-- NORMAL is shown only while no enabled latch is set, ALERT only while one is (R178, R185). -/
def State.pageFollows (s : State) : Prop :=
  (s.panel.page = .normal → s.shownLatch = none) ∧ (s.panel.page = .alert → s.shownLatch ≠ none)

/-- No volume state write is pending while the card is write-locked or in write fault (R163), and no mount request
waits but while the card is WAKING (R155). -/
def State.requestsFollow (s : State) : Prop :=
  (s.writesBarred = true → s.volume.pendingWrite = none) ∧ (s.card.state ≠ .waking → s.volume.deferred = [])

/-- Everything that holds from moment to moment. -/
def State.followed (s : State) : Prop :=
  s.spindlesFollow ∧ s.governingFollows ∧ s.holdFollows ∧ s.admissionFollows ∧ s.pageFollows ∧ s.requestsFollow

/-! ### Invariants -/

/-- What the Power Unit carries out agrees with the power state (R166, R167, R169, R170, R172). -/
def State.jobFollows (s : State) : Bool :=
  match s.power.state, s.power.job with
  | .run, .none => true
  | .run, .restart _ => true
  | .drain, .idle _ => true
  | .drain, .idleSleep => true
  | .quiet, .none => true
  | .emergency, .emergency _ => true
  | .spent, .none => true
  | _, _ => false

/-- The slot states that hold a key (R92). -/
def SlotState.holdsKey : SlotState → Bool
  | .free | .discarding => false
  | _ => true

/-- A slot record has the parts its state calls for (R91, R92): a key, a record with the layout table that belongs to
it, a load context. -/
def Slot.lawful (x : Slot) : Bool :=
  x.key.isSome == x.state.holdsKey && x.record.isSome == x.state.holdsRecord
    && decide (x.layout = x.record.bind Record.layout) && x.context.isSome == decide (x.state = .loading)
    && (!decide (x.state = .free) || decide (x = Slot.free))

/-- The laws of the cache and the commit queue: slot records are lawful, no key stands in two slots (R92), the recency
order holds each slot that is not FREE once (R96), the commit queue each DIRTY slot once (R119), a load in flight
has its slot LOADING and a flush in flight its slot WRITING or DISCARDING (R93). -/
def State.cacheLawful (s : State) : Prop :=
  (∀ i, (s.slot i).lawful = true)
    ∧ (∀ i j, (s.slot i).key ≠ none → (s.slot i).key = (s.slot j).key → i = j)
    ∧ s.cache.recency.Nodup ∧ (∀ i, i ∈ s.cache.recency ↔ (s.slot i).state ≠ .free)
    ∧ s.commit.queue.Nodup ∧ (∀ i, i ∈ s.commit.queue ↔ (s.slot i).state = .dirty)
    ∧ (∀ op, s.card.holder = .loader op → (s.slot op.slot).state = .loading)
    ∧ (∀ op, s.card.holder = .flusher op →
        (s.slot op.slot).state = .writing ∨ (s.slot op.slot).state = .discarding)

/-- The load list's DEMAND entries stand before its PREFETCH entries. -/
def demandFirst : List LoadEntry → Bool
  | [] => true
  | x :: xs => (decide (x.kind = .demand) || xs.all fun y => decide (y.kind = .prefetch)) && demandFirst xs

/-- The laws of the load list (R98): at most six entries, no key twice, DEMAND before PREFETCH. -/
def State.loadsLawful (s : State) : Prop :=
  s.cache.loads.length ≤ Config.loadListSize ∧ (s.cache.loads.map LoadEntry.key).Nodup
    ∧ demandFirst s.cache.loads = true

/-- A record's revolution has cells. -/
def Record.turns : Record → Bool
  | .empty => true
  | .sectored t => decide (0 < t.cells)
  | .raw t => decide (0 < t.cells)

/-- A buffer's capture frame has cells. -/
def CaptureBuffer.turns : CaptureBuffer → Bool
  | .empty => true
  | .capturing c => decide (0 < c.cells)
  | .waitingMerge r => decide (0 < r.capture.cells)
  | .merging r => decide (0 < r.capture.cells)

/-- The counter stands within its revolution (R45), and every record and capture frame has cells (R2, R65). -/
def State.rotationLawful (s : State) : Prop :=
  s.rotation.position < s.rotation.cells ∧ (∀ i r, (s.slot i).record = some r → r.turns = true)
    ∧ s.capture.buf1.turns = true ∧ s.capture.buf2.turns = true

/-- Head cylinders within 0 to 84 (R32) and the idle counter within 0 to 60 (R165). -/
def State.rangesLawful (s : State) : Prop :=
  s.driveA.cylinder ≤ Config.maxCylinder ∧ s.driveB.cylinder ≤ Config.maxCylinder ∧ s.power.idle ≤ Config.maxIdle

/-- Settings within the ranges of R190, and drive B's line never drive A's (R24). -/
def Settings.lawful (t : Settings) : Bool :=
  decide (t.selB ≠ some t.selA) && decide (2 ≤ t.settleMs ∧ t.settleMs ≤ 60) && decide (t.spinUpMs ≤ 1000)
    && decide (t.holdLimitMs ≤ 1500) && decide (200 ≤ t.swapMs ∧ t.swapMs ≤ 5000) && decide (t.idleSecs ≤ 60)
    && decide (2 ≤ t.urgentOn ∧ t.urgentOn ≤ 16) && decide (t.urgentOff < t.urgentOn)

/-! ### Records -/

/-- A sector entry whose fields are in range (R5, R19). -/
def SectorEntry.lawful (x : SectorEntry) : Bool :=
  decide (x.n.toNat ≤ Config.maxSizeCode)
    && match x.data with
      | none => true
      | some bs => decide (bs.length = dataLength x.n.toNat)

/-- A SECTORED or RAW record that is well-formed for an image (R4, R8, R19); an EMPTY one is never written (R21). -/
def Record.lawful (e : CatalogueEntry) (r : Record) : Bool :=
  match r with
  | .empty => false
  | .sectored t =>
    decide (t.cells = cellsPerRev t.rate e.rpm) && decide (t.gap4a ≤ 200) && t.gap1.all (fun g => decide (g ≤ 100))
      && decide (1 ≤ t.gap2 ∧ t.gap2 ≤ 60) && decide (1 ≤ t.gap3 ∧ t.gap3 ≤ 255)
      && decide (t.sectors.length ≤ Config.maxSectors) && t.sectors.all SectorEntry.lawful && fitsRevolution t
      && decide (r.serialisedLength ≤ Config.maxRecordBytes)
  | .raw t => decide (t.cells = cellsPerRev t.rate e.rpm) && decide (t.stream.length = t.cells)

end Sys2Proof.Machine
end

