-- ==== Sys2Proof/Certificates/Slice0/Obligations.lean ====
section
/-! DEFINITION. The statements for the provers. -/

section

open Sys2Proof Sys2Proof.Machine

/-! ### Steps, the supply -/

/-- One step takes the front command with the queue's rest; an empty queue idles (log 2). -/
def Obligations.StepRunsFrontCommand : Prop :=
  (∀ (c : Instr) (rest : List Instr) (s : State), s.pending = c :: rest → step s = exec c { s with pending := rest })
    ∧ ∀ s : State, s.pending = [] → step s = .next s

/-- No command stops the part, and none touches the queue. -/
def Obligations.EveryCommandAnswers : Prop :=
  ∀ (c : Instr) (s : State), ∃ t, exec c s = .next t ∧ t.pending = s.pending

/-- PFW asserts in RUN, DRAIN or QUIET (R169): both spindles stop, the guard is cancelled, a capture being written is
discarded, a hold is released, a load in flight is to end at its block boundary, drain mode is on for the emergency
drain until that ends. -/
def Obligations.PfwAssertEntersEmergency : Prop :=
  ∀ s : State, s.steady → s.lines.pfw = false → s.isFailing = false →
    ∃ t, exec .pfwAssert s = .next t
      ∧ ((t.power.state = .emergency ∧ ∃ g, t.power.job = .emergency g) ∨ t.power.state = .spent)
      ∧ t.power.idle = 0 ∧ t.power.recovery = false ∧ t.cable.guard = false
      ∧ t.driveA.spindle = .stopped ∧ t.driveB.spindle = .stopped ∧ t.rotation.hold = .none
      ∧ WriteEnded s t
      ∧ t.wprot .a = true ∧ t.wprot .b = true ∧ t.index = false ∧ t.rdata = false
      ∧ (∀ op, s.card.holder = .loader op → t.card.holder = .loader { op with abort := true })
      ∧ (∀ op, s.card.holder = .flusher op → t.card.holder = .flusher op)
      ∧ t.cache.slots = s.cache.slots ∧ t.commit = s.commit ∧ t.lines = { s.lines with pfw := true }

/-- A second with no cable activity in RUN (R165): the counter rises by one, at most to 60; below the idle time the
part stays in RUN, and at it DRAIN begins, which ends in QUIET in the same moment only where no card is in use. -/
def Obligations.IdleCounterAdvances : Prop :=
  ∀ s : State, s.steady → s.power.state = .run → s.jobFollows = true → s.activeLine = false →
    ∃ t, exec .idleCounterAdvance s = .next t ∧ t.power.idle = min (s.power.idle + 1) 60
      ∧ ((s.settings.idleSecs = 0 ∨ t.power.idle < s.settings.idleSecs) → t.power.state = .run)
      ∧ (s.settings.idleSecs ≠ 0 → s.settings.idleSecs ≤ t.power.idle →
          t.power.state = .drain
            ∨ t.power.state = .quiet ∧ (s.card.state = .absent ∨ s.card.state = .fault))

/-- POWER_ON gives the power-on values of every block, with the lines, the card in the slot and the queue as they are;
with PFW asserted EMERGENCY is entered at once and its drain, with nothing to flush or close, ends in SPENT (R164).
POWER_LOSS loses everything volatile; the card's bytes stand but for a write in flight, which is cut off (R133, R163,
R164). Three things here are the model's choice and no rule's: a spindle whose motor line stands asserted at POWER_ON
starts at once (log 13; R44 gives STOPPED at power-on), what a cut write leaves is a free value (log 6), and the
unpowered part holds the power-on values (log 7). -/
def Obligations.PowerComesAndGoes : Prop :=
  ∀ s : State,
    let card : Card :=
      { State.reset.card with
        state := if s.lines.cardDetect then .settling else .absent
        medium := s.card.medium }
    let up : State :=
      { State.reset with lines := s.lines, card := card, freeCount := s.freeCount, pending := s.pending }
    let spindle := fun demand : Bool => if demand then Spindle.spinningUp 250 else Spindle.stopped
    (s.lines.pfw = false → exec .powerOn s = .next
      { up with
        driveA := { DriveUnit.powerOn with spindle := spindle s.lines.mot0 }
        driveB := { DriveUnit.powerOn with spindle := spindle s.lines.mot1 } })
    ∧ (s.lines.pfw = true → exec .powerOn s = .next
      { up with
        cable := { guard := false, admitted := none }
        power := { up.power with state := .spent } })
    ∧ (s.powered = true → exec .powerLoss s = .next
      { State.reset with
        powered := false
        lines := s.lines
        card := { State.reset.card with medium := s.cutWrite.card.medium }
        freeCount := s.cutWrite.freeCount
        pending := s.pending })
    ∧ (s.powered = false → exec .powerLoss s = .next s)
    ∧ (s.writeInFlight = none → s.cutWrite = s)

/-- Every DEMAND entry of the load list asks for a key of a drive's head cylinder or for the key of a waiting capture,
as R73 counts them: at most four and two. -/
def DemandsAsked (s : State) : Prop :=
  ∀ x ∈ s.cache.loads, x.kind = .demand →
    (∃ d, x.key ∈ s.driveKeys d) ∨ ∃ b r, s.buffer b = .waitingMerge r ∧ r.capture.key = x.key

/-- In EMERGENCY and SPENT an assertion of PFW cancels the recovery timer and each release starts it. When it expires
the part returns to RUN with the idle counter at 0, the write guard started, an ASLEEP card woken, the emergency
drain's request withdrawn and the spindles derived from their demand; slots, commit queue, alert latches, and a load
or flush in flight stand; each drive that is PRESENT and SETTLED has a DEMAND entry for every key of its cylinder that
is not OUTSIDE and not cached (R34, R171). -/
def Obligations.RecoveryReturnsToRun : Prop :=
  (∀ s : State, s.powered = true → s.isFailing = true → s.jobFollows = true →
    (s.lines.pfw = false → ∃ t, exec .pfwAssert s = .next t ∧ t.power.recovery = false ∧ t.isFailing = true)
    ∧ (s.lines.pfw = true → ∃ t, exec .pfwRelease s = .next t ∧ t.power.recovery = true ∧ t.isFailing = true
        ∧ t.lines = { s.lines with pfw := false }))
  ∧ ∀ s : State, s.steady → s.isFailing = true → s.power.recovery = true →
    ∃ t, exec .recoveryTimerExpiry s = .next t
      ∧ t.power.state = .run ∧ t.power.idle = 0 ∧ t.power.recovery = false ∧ t.power.job = .none
      ∧ t.cable.guard = true ∧ (s.card.state = .asleep → t.card.state = .waking)
      ∧ (∀ d, (t.drive d).spindle = .stopped ↔ t.motorDemand d = false)
      ∧ t.cache.slots = s.cache.slots ∧ t.commit = s.commit ∧ t.card.holder = s.card.holder
      ∧ (∀ a, s.isLatched a = true → t.isLatched a = true)
      ∧ (s.loadsLawful → DemandsAsked s →
          (∀ d k, (s.drive d).media = .present → (s.drive d).motion = .settled → k ∈ s.driveKeys d →
              s.isOutside k = false → s.isCached k = false → ∃ x ∈ t.cache.loads, x.key = k ∧ x.kind = .demand)
          ∧ ∀ x ∈ s.cache.loads, x.kind = .demand → x ∈ t.cache.loads)

/-! ### The cable and the drives -/

/-- Motor demand (R26). -/
def Obligations.MotorDemandFollowsSource : Prop :=
  ∀ (s : State) (d : Drive),
    (s.settings.motorSource d = .mot0 → s.motorDemand d = s.lines.mot0)
    ∧ (s.settings.motorSource d = .mot1 → s.motorDemand d = s.lines.mot1)
    ∧ (s.settings.motorSource d = .select → s.motorDemand d = s.lineAsserted d)
    ∧ (s.driveBOff = true → s.settings.motB = .select → s.motorDemand .b = false)

/-- New levels of the select lines or the motor lines (R25, R26, R30, R31): the lines stand as given, a drive is
selected while its line is asserted and the other drive's is not, a spindle with no
demand stops, a STOPPED one with demand starts, any other stays; fault (c) latches CABLE_FAULT at its start; an
admitted write whose drive is no longer selected is ended as fault (d) (R42); heads and slots stay. -/
def Obligations.LineChangesTakeEffect : Prop :=
  ∀ (s : State) (c : Instr) (lines : Lines), s.steady →
    ((∃ s0 s1 s2 s3, c = .selectLineChange s0 s1 s2 s3
        ∧ lines = { s.lines with sel0 := s0, sel1 := s1, sel2 := s2, sel3 := s3 })
      ∨ ∃ m0 m1, c = .motorLineChange m0 m1 ∧ lines = { s.lines with mot0 := m0, mot1 := m1 }) →
    ∃ t, exec c s = .next t ∧ t.lines = lines
      ∧ (∀ d, t.selected = some d ↔ t.lineAsserted d = true ∧ t.lineAsserted (otherDrive d) = false)
      ∧ (∀ d,
          (s.isFailing = true ∨ t.motorDemand d = false → (t.drive d).spindle = .stopped)
          ∧ (s.isFailing = false → t.motorDemand d = true → (s.drive d).spindle = .stopped →
              (t.drive d).spindle
                = if s.settings.spinUpMs = 0 then .atSpeed else .spinningUp s.settings.spinUpMs)
          ∧ (s.isFailing = false → t.motorDemand d = true → (s.drive d).spindle ≠ .stopped →
              (t.drive d).spindle = (s.drive d).spindle))
      ∧ (t.faultC = true → s.faultC = false → t.isLatched .cableFault = true)
      ∧ (∀ a, s.cable.admitted = some a → t.selected ≠ some a.drive → WriteFaulted s t)
      ∧ (∀ d, (t.drive d).cylinder = (s.drive d).cylinder ∧ (t.drive d).motion = (s.drive d).motion
          ∧ (t.drive d).lastDir = (s.drive d).lastDir ∧ (t.drive d).diskChange = (s.drive d).diskChange
          ∧ (t.drive d).mounted = (s.drive d).mounted)
      ∧ t.cache.slots = s.cache.slots ∧ t.commit = s.commit ∧ t.settings = s.settings

/-- A STEP pulse is obeyed by the selected drive and no other (R32, R33, R35): the cylinder within 0 to 84, the
direction, MOVING with the settle timer started afresh, the disk-change latch cleared if the drive is PRESENT; its load
entries go but for those a waiting capture asks for (R73, R100); the other drive's record stands. -/
def Obligations.StepMovesSelectedDrive : Prop :=
  ∀ (s : State) (d : Drive) (dir : Bool), s.steady → s.selected = some d →
    ∃ t, exec (.step dir) s = .next t
      ∧ (t.drive d).cylinder
          = (if dir then min ((s.drive d).cylinder + 1) 84 else (s.drive d).cylinder - 1)
      ∧ (t.drive d).lastDir = (if dir then .inward else .outward)
      ∧ (t.drive d).motion = .moving s.settings.settleMs
      ∧ (t.drive d).diskChange = ((s.drive d).diskChange && !(s.drive d).isPresent)
      ∧ (t.drive d).media = (s.drive d).media ∧ (t.drive d).mounted = (s.drive d).mounted
      ∧ (t.drive d).overlay = (s.drive d).overlay
      ∧ (let u := s.drive (otherDrive d)
         let v := t.drive (otherDrive d)
         v.cylinder = u.cylinder ∧ v.lastDir = u.lastDir ∧ v.motion = u.motion ∧ v.diskChange = u.diskChange
          ∧ v.media = u.media ∧ v.mounted = u.mounted ∧ v.overlay = u.overlay)
      ∧ (∀ x ∈ t.cache.loads, x.drive = d → ∃ b r, s.buffer b = .waitingMerge r ∧ r.capture.key = x.key)
      ∧ t.lines = { s.lines with dir := dir } ∧ t.cache.slots = s.cache.slots ∧ t.commit = s.commit

/-- Cable faults (a) and (d) (R41, R42): a step obeyed by the drive an assertion is admitted for, and a change of SIDE
during an admitted assertion, end the write; the step is obeyed all the same. -/
def Obligations.StepOrSideEndsAdmittedWrite : Prop :=
  ∀ (s : State) (a : Admission), s.powered = true → s.cable.admitted = some a →
    (∀ dir, s.selected = some a.drive →
      ∃ t, exec (.step dir) s = .next t ∧ WriteFaulted s t
        ∧ (t.drive a.drive).motion = .moving s.settings.settleMs)
    ∧ (∀ side, side ≠ s.lines.side →
      ∃ t, exec (.sideChange side) s = .next t ∧ WriteFaulted s t ∧ t.lines.side = side)

/-- SIDE chooses the head of whichever drive is selected (R27), and nothing else moves. -/
def Obligations.SideChoosesHead : Prop :=
  ∀ (s : State) (side : Bool), s.steady →
    ∃ t, exec (.sideChange side) s = .next t ∧ t.lines = { s.lines with side := side }
      ∧ (∀ d, t.keyOf d = (s.drive d).mounted.map fun i =>
          { image := i, cylinder := (s.drive d).cylinder, head := if side then 1 else 0 })
      ∧ t.servedKey = t.selected.bind t.keyOf ∧ t.selected = s.selected
      ∧ t.cache.slots = s.cache.slots ∧ t.commit = s.commit

/-- The release of WGATE (R70, R72): the capture latches its end position and index-crossed flag and takes the next
release number, and waits for its merge, or is lost if it is orphaned, OUTSIDE or frame-changed. -/
def Obligations.WgateReleaseClosesCapture : Prop :=
  ∀ (s : State) (d : Drive) (b : BufferId) (c : Capture), s.steady → s.lines.wgate = true →
    s.cable.admitted = some { drive := d, buffer := some b } → s.buffer b = .capturing c →
    ∃ t, exec .wgateRelease s = .next t ∧ t.lines = { s.lines with wgate := false } ∧ t.cable.admitted = none
      ∧ t.capture.releases = s.capture.releases + 1
      ∧ (c.orphaned = true ∨ s.isOutside c.key = true ∨ c.frameChanged = true →
          t.buffer b = .empty ∧ t.isLatched .writeLost = true)
      ∧ (c.orphaned = false → s.isOutside c.key = false → c.frameChanged = false →
          t.buffer b = .waitingMerge
            { capture := c.close, endPos := s.rotation.position, indexCrossed := decide (1 ≤ c.crossings)
              order := s.capture.releases + 1 })

/-- The drives' timers and the write guard (R30, R34, R40, R157): SPINNING_UP becomes AT_SPEED while the demand lasts,
MOVING becomes SETTLED with the held-key set empty, SWAP becomes PRESENT, the guard ends. -/
def Obligations.TimersExpire : Prop :=
  ∀ (s : State) (d : Drive), s.steady → s.followed →
    (∀ n, (s.drive d).spindle = .spinningUp n →
      ∃ t, exec (.spinUpExpiry d) s = .next t ∧ (t.drive d).spindle = .atSpeed)
    ∧ (∀ n, (s.drive d).motion = .moving n →
      ∃ t, exec (.settleExpiry d) s = .next t ∧ (t.drive d).motion = .settled ∧ (t.drive d).heldKeys = [])
    ∧ (∀ n, (s.drive d).media = .swap n →
      ∃ t, exec (.swapIntervalExpiry d) s = .next t ∧ (t.drive d).media = .present
        ∧ (t.drive d).diskChange = (s.drive d).diskChange)
    ∧ ∃ t, exec .writeGuardExpiry s = .next t ∧ t.cable.guard = false

/-- A settle expiry of a PRESENT drive, and a swap expiry, ask for the keys of the head cylinder (R34, R99, R157): each
that is not OUTSIDE and not cached stands in the load list as a DEMAND entry, none in EMERGENCY or SPENT, and its
requesting drive is the drive itself unless it was a DEMAND entry before; an entry that was DEMAND stays. The list
has room for them while no more than two DEMAND entries are for keys other than the drive's own and those of waiting
captures, as R73 counts. -/
def Obligations.SettleAndSwapRequestCylinder : Prop :=
  ∀ (s : State) (d : Drive) (c : Instr) (k : Key), s.steady → s.loadsLawful → s.isFailing = false →
    (s.cache.loads.filter fun x => decide (x.kind = .demand) && !(s.driveKeys d).contains x.key
        && !s.capture.buf1.protects x.key && !s.capture.buf2.protects x.key).length ≤ 2 →
    (c = .settleExpiry d ∧ (s.drive d).motion ≠ .settled ∧ (s.drive d).media = .present
      ∨ c = .swapIntervalExpiry d ∧ ∃ n, (s.drive d).media = .swap n) →
    k ∈ s.driveKeys d → s.isOutside k = false → s.isCached k = false →
    ∃ t, exec c s = .next t
      ∧ (∃ x ∈ t.cache.loads, x.key = k ∧ x.kind = .demand ∧ (x.drive = d ∨ x ∈ s.cache.loads))
      ∧ ∀ x ∈ s.cache.loads, x.kind = .demand → x ∈ t.cache.loads

/-- A STEP pulse with no drive selected, cable fault (c) included, moves no head (R25, R32). Each pulse is cable
activity, obeyed or not (R43, R165, R166, R168): DRAIN and QUIET give place to RUN, the idle counter goes to 0, and a
card that slept in QUIET is woken. -/
def Obligations.StepIsActivityWhoeverIsSelected : Prop :=
  ∀ (s : State) (dir : Bool), s.steady →
    ∃ t, exec (.step dir) s = .next t
      ∧ (s.selected = none →
          ∀ d, (t.drive d).cylinder = (s.drive d).cylinder ∧ (t.drive d).lastDir = (s.drive d).lastDir
            ∧ (t.drive d).motion = (s.drive d).motion ∧ (t.drive d).diskChange = (s.drive d).diskChange
            ∧ (t.drive d).media = (s.drive d).media ∧ (t.drive d).mounted = (s.drive d).mounted
            ∧ (t.drive d).overlay = (s.drive d).overlay)
      ∧ (s.jobFollows = true → s.isFailing = false →
          t.power.state = .run ∧ t.power.idle = 0 ∧ t.power.job = .none
            ∧ (s.power.state = .quiet → s.card.state = .asleep → t.card.state = .waking))

/-- The leading edge of WGATE, first row that holds (R39): ignored without alert, ignored as cable fault (b), or
admitted for the selected drive and the served key. An admitted assertion's capture takes the lowest-numbered EMPTY
buffer, which latches the drive, the key, the capture frame, the capture encoding and the start position, with nothing
recorded; with no EMPTY buffer WRITE_LOST is latched and the buffers stand (R65). -/
def Obligations.WgateEdgeIsJudged : Prop :=
  ∀ s : State, s.steady → s.followed → s.lines.wgate = false → s.cable.admitted = none →
    ∃ t, exec .wgateAssert s = .next t ∧ t.lines = { s.lines with wgate := true }
      ∧ (s.cable.guard = true ∨ s.selected = none ∨ (∃ d, s.selected = some d ∧ s.wprot d = true) →
          t.alerts = s.alerts ∧ t.cable.admitted = none ∧ t.capture = s.capture)
      ∧ ∀ d, s.cable.guard = false → s.selected = some d → s.wprot d = false →
          ((s.drive d).isAtSpeed = false ∨ s.isHeld = true →
            t.isLatched .cableFault = true ∧ t.cable.admitted = none ∧ t.capture = s.capture)
          ∧ ∀ k, (s.drive d).isAtSpeed = true → s.isHeld = false → s.keyOf d = some k →
            t.cable.admitted = some { drive := d, buffer := s.emptyBuffer }
            ∧ (∀ b, s.emptyBuffer = some b →
                t.buffer b = .capturing
                  { drive := d, key := k, encoding := s.captureEncoding k, rate := s.rotation.rate
                    cells := s.rotation.cells, start := s.rotation.position, frameChanged := false
                    orphaned := false, crossings := 0, revCells := [], count := 0, recent := [], opened := none
                    fields := [], phase := 0 }
                ∧ t.buffer (otherBuffer b) = s.buffer (otherBuffer b))
            ∧ (s.emptyBuffer = none → t.isLatched .writeLost = true ∧ t.capture = s.capture)

/-! ### The outputs -/

/-- With no drive selected every output is released (R23). -/
def Obligations.OutputsReleasedUnselected : Prop :=
  ∀ s : State, s.selected = none →
    s.index = false ∧ s.trk0 = false ∧ s.wprotLine = false ∧ s.rdata = false ∧ s.line34 = false

/-- INDEX (R49). -/
def Obligations.IndexConditions : Prop :=
  ∀ s : State, s.powered = true →
    (s.index = true ↔
      s.rotation.position * 50 < s.rotation.cells
        ∧ (∃ d, s.selected = some d ∧ (s.drive d).media = .present ∧ (s.drive d).spindle = .atSpeed)
        ∧ (∀ k d n, s.rotation.hold ≠ .held k d n)
        ∧ (s.power.state = .run ∨ s.power.state = .drain ∨ s.power.state = .quiet))

/-- When RDATA carries the served content, and which cell: that at the counter's position of the served record's
revolution, a blank one where there is no record (R58 to R62). -/
def Obligations.ReadDataConditions : Prop :=
  ∀ s : State, s.powered = true →
    (s.streams = true ↔
      (∃ d, s.selected = some d ∧ (s.drive d).media = .present ∧ (s.drive d).spindle = .atSpeed
          ∧ (s.drive d).motion = .settled)
        ∧ s.lines.wgate = false ∧ (∀ k d n, s.rotation.hold ≠ .held k d n)
        ∧ (s.power.state = .run ∨ s.power.state = .drain ∨ s.power.state = .quiet))
    ∧ (s.streams = false → s.rdata = false)
    ∧ (∀ d k e, s.streams = true → s.selected = some d → s.keyOf d = some k → s.entry k.image = some e →
        s.rdata = (((s.recordOf k).getD .empty).cellsOf e).getD s.rotation.position false)

/-- The panel's texts and points (R176, R179 to R182): NORMAL in every card state, BROWSE and ALERT in both halves of
their blink, every service item. That LOC, rEV, rSt and End stand in the first three digits (log 27), and that no state
lies between two transfers of one holder, which would show the point of digit 4 dark (log 39), are the model's
choice. -/
def Obligations.DisplayShowsPage : Prop :=
  ∀ s : State, s.powered = true →
    (s.panel.page = .normal →
      (s.card.state = .ready ∨ s.card.state = .asleep ∨ s.card.state = .waking
          ∨ (∃ b n, s.card.state = .reinit b n) →
        s.digits = driveDigit s.panel.drive ++ " " ++ slotDigits (s.drive s.panel.drive).mounted)
      ∧ (s.card.state = .absent ∨ s.card.state = .settling → s.digits = driveDigit s.panel.drive ++ " nc")
      ∧ ((∃ n, s.card.state = .identifying n) ∨ s.card.state = .readingVolume →
        s.digits = driveDigit s.panel.drive ++ " In")
      ∧ (s.card.state = .fault → s.digits = driveDigit s.panel.drive ++ " Fl"))
    ∧ (∀ c, s.panel.page = .browse c →
      (s.panel.blinkLit = true → s.digits = driveDigit s.panel.drive ++ " " ++ slotDigits c)
      ∧ (s.panel.blinkLit = false → s.digits = driveDigit s.panel.drive ++ "   "))
    ∧ (∀ i, s.panel.page = .alert → s.shownLatch = some i →
      (s.panel.blinkLit = true → s.digits = "E " ++ twoDigits (i.val + 1))
      ∧ (s.panel.blinkLit = false → s.digits = "    ")
      ∧ s.alerts[i] = true ∧ s.settings.enables[i] = true
      ∧ ∀ j, j < i → s.alerts[j] = false ∨ s.settings.enables[j] = false)
    ∧ (s.panel.page = .service .lock → s.digits = if s.panel.lock then "ULOC" else "LOC ")
    ∧ (s.panel.page = .service .revert → s.digits = "rEV ")
    ∧ (s.panel.page = .service .flush → s.digits = "FLSH")
    ∧ (s.panel.page = .service .restart → s.digits = "rSt ")
    ∧ (s.panel.page = .service .queueLength → s.digits = "q " ++ twoDigits s.commit.queue.length)
    ∧ (s.panel.page = .service .endItem → s.digits = "End ")
    ∧ driveDigit .a = "A" ∧ driveDigit .b = "b" ∧ slotDigits none = "--"
    ∧ slotDigits (some 0) = "00" ∧ slotDigits (some 7) = "07" ∧ slotDigits (some 99) = "99"
    ∧ (s.point2 = true ↔ s.selected = some s.panel.drive)
    ∧ (s.point4 = true ↔
        s.card.holder ≠ .none ∧ (s.card.state = .ready ∨ s.card.state = .readingVolume))

/-! ### Rotation -/

/-- The cells hold a mark of this kind (R68, R186): in MFM three sync-mark bytes (4489 hex, before an index mark 5224
hex), then the mark byte by its data cells, its clock cells left open as the model reads it (log 20); in FM the mark
byte with its clock byte, C7 hex or for an index mark D7 hex. -/
def HoldsMark (e : Encoding) (k : FieldKind) (w : List Bool) : Prop :=
  let sync := if k = .indexMark then byteBits 0x52#8 ++ byteBits 0x24#8 else byteBits 0x44#8 ++ byteBits 0x89#8
  let clock : Byte := if k = .indexMark then 0xD7#8 else 0xC7#8
  let mark : Byte := match k with
    | .id => 0xFE#8
    | .data => 0xFB#8
    | .deletedData => 0xF8#8
    | .indexMark => 0xFC#8
  match e with
  | .mfm =>
    w.length = 64 ∧ w.take 48 = sync ++ sync ++ sync ∧ ∀ i, i < 8 → w[48 + (2 * i + 1)]? = (byteBits mark)[i]?
  | .fm =>
    w.length = 16 ∧ ∀ i, i < 8 → w[2 * i]? = (byteBits clock)[i]? ∧ w[2 * i + 1]? = (byteBits mark)[i]?

/-- What the decoder makes of one recorded cell (R68, R69). `window` are the last cells as many as a mark has, of those
no earlier mark used. `dropped` cells have left the buffer, and with them the fields they belonged to. A mark opens a
field at the rotation position of its first cell, and an index mark is a field of its own; it ends the open field, a
data field with the whole bytes before the mark, an ID with the bytes it has, not good. With no mark every sixteenth
cell completes a byte, read from its data cells; an ID closes at six bytes, good if its CRC is correct. Three sync-mark
bytes and a byte that makes no mark leave the cells after the third to be looked at. That a mark's cells are used up for
the next one, and which bytes an ID ended by a mark keeps, are the model's reading (log 20). -/
def DecodesCell (c : Capture) (cell : Bool) : Prop :=
  let t := c.record cell
  let width := match c.encoding with
    | .mfm => 64
    | .fm => 16
  let window := (c.recent ++ [cell]).drop (c.recent.length + 1 - width)
  let dropped := c.count + 1 - c.cells
  let kept := c.fields.filter fun x => decide (dropped ≤ x.first)
  let live := c.opened.filter fun f => decide (dropped ≤ f.first)
  let synced := c.encoding = .mfm ∧ window.length = 64
    ∧ (window.take 48 = syncA1Cells ++ syncA1Cells ++ syncA1Cells
      ∨ window.take 48 = syncC2Cells ++ syncC2Cells ++ syncC2Cells)
  let closed := fun (f : OpenField) (bytes : List Byte) =>
    ({ kind := f.kind, markPos := f.markPos, bytes := bytes, first := f.first
       idGood := decide (f.kind = .id) && decide (bytes.length = 6)
          && decide (fieldCrc c.encoding .id (bytes.take 4) false = bytes.drop 4) } : Field)
  c.recent.length ≤ width →
  (∀ f, c.opened = some f → f.revCells.length < 16 ∧ (f.kind = .id → f.revBytes.length < 6)) →
  (∀ k, HoldsMark c.encoding k window →
    let first := c.count + 1 - width
    let opens : OpenField :=
      { kind := k, markPos := (c.start + first) % c.cells, first := first, revBytes := [], revCells := [] }
    let own := if k = .indexMark then [closed opens []] else []
    t.opened = (if k = .indexMark then none else some opens) ∧ t.recent = []
    ∧ (live = none → t.fields = kept ++ own)
    ∧ ∀ f, live = some f →
      (f.kind ≠ .id → t.fields = kept
        ++ closed f (f.revBytes.reverse.take ((16 * f.revBytes.length + f.revCells.length + 1 - width) / 16)) :: own)
      ∧ (f.kind = .id → ∃ bytes, t.fields = kept ++ closed f bytes :: own
          ∧ bytes.take f.revBytes.length = f.revBytes.reverse ∧ bytes.length ≤ f.revBytes.length + 1))
  ∧ ((∀ k, ¬HoldsMark c.encoding k window) →
    (synced → t.recent = window.drop 48) ∧ (¬synced → t.recent = window)
    ∧ (live = none → t.opened = none ∧ t.fields = kept)
    ∧ ∀ f, live = some f →
      (f.revCells.length < 15 → t.opened = some { f with revCells := cell :: f.revCells } ∧ t.fields = kept)
      ∧ (f.revCells.length = 15 → ∃ v : Byte,
          (∀ i, i < 8 → (byteBits v)[i]? = (f.revCells.reverse ++ [cell])[2 * i + 1]?)
          ∧ (f.kind = .id → f.revBytes.length = 5 →
              t.opened = none ∧ t.fields = kept ++ [closed f (f.revBytes.reverse ++ [v])])
          ∧ (f.kind ≠ .id ∨ f.revBytes.length < 5 →
              t.opened = some { f with revBytes := v :: f.revBytes, revCells := [] } ∧ t.fields = kept)))

/-- A capture records one cell for each cell time of its own rate (R66, R67), whatever rate governs: a 1 where a WDATA
pulse arrived. A buffer holds at most one revolution and drops its earliest cells. An arrival at index is a crossing.
Each cell goes through the decoder (R68, R69), and the release closes the open field with its whole bytes. A change of
the governing cells per revolution marks a capture frame-changed, and nothing else does (R67). How the operand of
CELL_TIME names the pulses is the model's choice (log 9). -/
def Obligations.CaptureRecordsEachCell : Prop :=
  (∀ (s : State) (b : BufferId) (c : Capture) (wdata : List Bool), s.steady → s.followed → s.isHeld = false →
    s.buffer b = .capturing c → c.phase < c.rate.cellMicros →
    let elapsed := c.phase + s.rotation.rate.cellMicros
    let due := elapsed / c.rate.cellMicros
    let new := (List.range due).map fun i => wdata.getD i false
    ∃ t c', exec (.cellTime wdata) s = .next t ∧ t.buffer b = .capturing c' ∧ c'.count = c.count + due
      ∧ c'.stream = (c.stream ++ new).drop (due - (c.cells - c.count))
      ∧ c'.phase = elapsed % c.rate.cellMicros
      ∧ c'.crossings = (if s.rotation.position + 1 < s.rotation.cells then c.crossings else c.crossings + 1)
      ∧ c'.start = c.start ∧ c'.key = c.key ∧ c'.drive = c.drive ∧ c'.encoding = c.encoding ∧ c'.rate = c.rate
      ∧ c'.cells = c.cells ∧ c'.frameChanged = c.frameChanged ∧ c'.orphaned = c.orphaned
      ∧ ∀ w, due = 1 → new = [w] →
          c'.fields = (c.record w).fields ∧ c'.opened = (c.record w).opened ∧ c'.recent = (c.record w).recent)
  ∧ CellRate.k250.cellMicros = 4 ∧ CellRate.k500.cellMicros = 2 ∧ CellRate.k1000.cellMicros = 1
  ∧ (∀ (c : Capture) (cell : Bool), DecodesCell c cell)
  ∧ (∀ c : Capture, c.opened = none → c.close = c)
  ∧ (∀ (c : Capture) (f : OpenField), c.opened = some f → c.close.opened = none ∧ ∃ x : Field,
      c.close.fields = c.fields ++ [x] ∧ x.kind = f.kind ∧ x.markPos = f.markPos ∧ x.bytes = f.revBytes.reverse
      ∧ (x.idGood = true → x.kind = .id ∧ x.bytes.length = 6))
  ∧ ∀ (i : Instr) (s t : State) (b : BufferId) (c : Capture), exec i s = .next t → i ≠ .powerOn → i ≠ .powerLoss →
      t.buffer b = .capturing c →
      (t.rotation.cells ≠ s.rotation.cells → c.frameChanged = true)
      ∧ (c.frameChanged = true → t.rotation.cells = s.rotation.cells →
          ∃ c₀, s.buffer b = .capturing c₀ ∧ c₀.frameChanged = true)

/-- At the end of every command of a powered part whose job agrees with its power state (`StepKeepsRegisterLaws`) the
moment-to-moment rules hold (R25, R30, R31, R42, R46, R51, R53, R54, R155, R163, R178); that they are taken at the end
of each command is the model's choice (log 26). -/
def Obligations.RulesHoldAfterEveryCommand : Prop :=
  ∀ (c : Instr) (s t : State), s.jobFollows = true → exec c s = .next t → t.powered = true → t.followed

/-- TRK0, LINE34 and WPROT of the selected drive (R36, R37, R38); a mounted image has a catalogue entry. -/
def Obligations.DriveOutputsFollowDrive : Prop :=
  ∀ (s : State) (d : Drive), s.powered = true → s.selected = some d →
    (s.trk0 = true ↔ (s.drive d).cylinder = 0)
    ∧ (s.settings.line34 = .ready →
        (s.line34 = true ↔ (s.drive d).media = .present ∧ (s.drive d).spindle = .atSpeed
          ∧ (s.power.state = .run ∨ s.power.state = .quiet)))
    ∧ (s.settings.line34 = .diskchg → (s.line34 = true ↔ (s.drive d).diskChange = true))
    ∧ ((∀ i, (s.drive d).mounted = some i → s.entry i ≠ none) →
        (s.wprotLine = true ↔
          (s.drive d).mounted = none ∨ (∃ n, (s.drive d).media = .swap n)
            ∨ (∃ i e, (s.drive d).mounted = some i ∧ s.entry i = some e ∧ e.policy = .locked)
            ∨ s.card.writeLocked = true ∨ s.card.writeFault = true ∨ s.panel.lock = true
            ∨ s.power.state = .emergency ∨ s.power.state = .spent))

/-- One cell time of the governing rate (R45, R52): the counter advances by one, from its last cell to 0; while it is
held it stands still. Run on to index it stands at 0, and run on to the end of the INDEX window (R49) at the window's
first cell past it; the run-on is the model's choice (log 8). -/
def Obligations.CounterTurns : Prop :=
  ∀ s : State, s.steady → s.followed → s.rotationLawful →
    (∀ w, ∃ t, exec (.cellTime w) s = .next t
      ∧ (s.isHeld = true → t.rotation.position = s.rotation.position ∧ t.capture = s.capture)
      ∧ (s.isHeld = false →
          t.rotation.position = if s.rotation.position + 1 < s.rotation.cells then s.rotation.position + 1 else 0)
      ∧ t.rotation.cells = s.rotation.cells ∧ t.rotation.rate = s.rotation.rate ∧ t.cache.slots = s.cache.slots)
    ∧ (s.isHeld = false → ∃ t, exec .arrivalAtIndex s = .next t ∧ t.rotation.position = 0
        ∧ t.rotation.cells = s.rotation.cells)
    ∧ (s.isHeld = false → s.rotation.position * 50 < s.rotation.cells →
        ∃ t, exec .indexWindowEnd s = .next t ∧ t.rotation.cells = s.rotation.cells
          ∧ s.rotation.position ≤ t.rotation.position ∧ t.rotation.position < t.rotation.cells
          ∧ (s.rotation.cells ≤ t.rotation.position * 50 ∨ t.rotation.position + 1 = t.rotation.cells)
          ∧ ∀ p, s.rotation.position ≤ p → p < t.rotation.position → p * 50 < s.rotation.cells)

/-- An arrival at index while the hold state is ARMED begins a hold (R52), whether ARRIVAL_AT_INDEX brings it or a
CELL_TIME at the last position: the counter halts at 0, the served key is held for the selected drive and joins its
held-key set, the hold limit timer starts, INDEX is released and RDATA silent. When that timer expires the hold is
released with LATE, the counter where it was, the key still in the held-key set and not held again (R55). -/
def Obligations.HoldBeginsAndEnds : Prop :=
  (∀ (s : State) (d : Drive) (k : Key) (c : Instr), s.steady → s.followed → s.rotationLawful →
    s.rotation.hold = .armed → s.selected = some d → s.servedKey = some k →
    (c = .arrivalAtIndex ∨ s.rotation.position + 1 = s.rotation.cells ∧ ∃ w, c = .cellTime w) →
    ∃ t, exec c s = .next t ∧ t.rotation.hold = .held k d s.settings.holdLimitMs
      ∧ t.rotation.position = 0 ∧ k ∈ (t.drive d).heldKeys ∧ t.index = false ∧ t.rdata = false)
  ∧ ∀ (s : State) (k : Key) (d : Drive) (n : Nat), s.steady → s.followed → s.rotation.hold = .held k d n →
    ∃ t, exec .holdLimitExpiry s = .next t ∧ t.rotation.hold = .none ∧ t.isLatched .late = true
      ∧ t.rotation.position = s.rotation.position ∧ k ∈ (t.drive d).heldKeys

/-! ### The card -/

/-- A card is seated, its debounce ends, and it answers or fails its identification (R141, R142, R143, R147, R148). -/
def Obligations.CardIsDetectedAndIdentified : Prop :=
  (∀ (s : State) (card : CardInSlot), s.steady → s.lines.cardDetect = false → s.card.state = .absent →
    ∃ t, exec (.cardDetectAssert card) s = .next t ∧ t.card.state = .settling
      ∧ t.lines.cardDetect = true ∧ t.lines.lockSwitch = card.locked ∧ t.card.medium = Memory.ofCells card.bytes)
  ∧ (∀ s : State, s.steady → s.card.state = .settling →
    ∃ t, exec .debounceExpiry s = .next t ∧ t.card.state = .identifying 0
      ∧ t.card.writeLocked = s.lines.lockSwitch)
  ∧ (∀ (s : State) (n cap : Nat), s.steady → s.card.state = .identifying n →
    ∃ t, exec (.identificationExchangeEnd (.answered 512 cap)) s = .next t ∧ t.card.state = .readingVolume
      ∧ t.card.capacity = some cap ∧ t.card.holder = .volumeRead .header 1)
  ∧ ∀ (s : State) (n : Nat) (r : ExchangeEnd), s.steady → s.card.state = .identifying n →
    (∀ cap, r ≠ .answered 512 cap) →
    ∃ t, exec (.identificationExchangeEnd r) s = .next t
      ∧ (n + 1 < 3 → t.card.state = .identifying (n + 1))
      ∧ (3 ≤ n + 1 → t.card.state = .fault ∧ t.isLatched .cardFault = true)

/-- The card's content as the part holds it after removal, card fault and a discard: nothing; captures in progress are
orphaned, a drain has ended (R146). -/
def CardForgotten (s t : State) : Prop :=
  t.card.holder = .none ∧ t.card.buffer = none ∧ t.card.writeFault = false
    ∧ t.card.capacity = none ∧ t.card.header = none ∧ t.card.scratchA = none ∧ t.card.scratchB = none
    ∧ (∀ i, t.slot i = Slot.free) ∧ t.cache.recency = [] ∧ t.cache.loads = []
    ∧ t.commit = { queue := [], urgent := false }
    ∧ (∀ i : Fin 100, t.volume.catalogue[i] = none) ∧ t.volume.record = none ∧ t.volume.pendingWrite = none
    ∧ (∀ d, (t.drive d).mounted = none ∧ (t.drive d).media = .noMedia ∧ (t.drive d).diskChange = true
        ∧ (t.drive d).overlay = [] ∧ (t.drive d).cylinder = (s.drive d).cylinder
        ∧ (t.drive d).motion = (s.drive d).motion ∧ (t.drive d).lastDir = (s.drive d).lastDir
        ∧ (s.spindlesFollow → (t.drive d).spindle = (s.drive d).spindle))
    ∧ (∀ b r, t.buffer b ≠ .waitingMerge r) ∧ t.isHeld = false
    ∧ (s.admissionFollows → ∀ b c, s.buffer b = .capturing c → t.buffer b = .capturing { c with orphaned := true })
    ∧ t.drainMode = false
    ∧ (s.anyUnwritten = true → t.isLatched .dirtyLost = true)
    ∧ (∀ b r, s.buffer b = .waitingMerge r → t.isLatched .writeLost = true)
    ∧ t.settings = s.settings ∧ t.panel.lock = s.panel.lock
    ∧ ∀ a, s.isLatched a = true → t.isLatched a = true

/-- Card detect releases (R146, R147): in SETTLING and FAULT the card is only ABSENT, in every other state but ABSENT
it is removed, with the effects `CardForgotten` lists. -/
def Obligations.CardRemovalForgetsCard : Prop :=
  ∀ s : State, s.steady → s.lines.cardDetect = true → s.card.state ≠ .absent →
    ∃ t, exec .cardRemoval s = .next t ∧ t.card.state = .absent ∧ t.lines.cardDetect = false
      ∧ (s.card.state ≠ .settling → s.card.state ≠ .fault → CardForgotten s t ∧ t.card.writeLocked = false)
      ∧ (s.card.state = .settling ∨ s.card.state = .fault → t.cache.slots = s.cache.slots ∧ t.commit = s.commit)

/-- The insertion read that is in flight, at its attempt (R144, R148). -/
abbrev Reads (s : State) (r : InsertionRead) (attempt : Nat) : Prop :=
  s.card.state = .readingVolume ∧ s.card.holder = .volumeRead r attempt

/-- The volume state read (R151, R152): the record it gives, OPEN with no last slots and count 0 where its check fails,
UNCLEAN where it is OPEN; the card is READY and given back, DRAIN and QUIET return to RUN; each last slot that can be
mounted is, where restore mounts is on. -/
def Obligations.VolumeStateReadMakesCardReady : Prop :=
  ∀ (s : State) (n : Nat), s.steady → s.jobFollows = true → s.isFailing = false → Reads s .volumeState n →
    s.driveA.mounted = none → s.driveB.mounted = none →
    let r : VolumeRecord :=
      match parseVolumeState (Memory.readBlocks s.card.medium 15 1) with
      | some r => r
      | none => { state := .open, slotA := none, slotB := none, count := 0 }
    let mounts : Option Nat → Bool := fun x => s.settings.restoreMounts && x.any fun i => (s.entry i).isSome
    ∃ t, exec (.volumeStateReadEnd .complete) s = .next t ∧ t.card.state = .ready ∧ t.card.holder = .none
      ∧ t.volume.record = some r ∧ (r.state = .open → t.isLatched .unclean = true) ∧ t.power.state = .run
      ∧ t.driveA.mounted = (if mounts r.slotA then r.slotA else none)
      ∧ (mounts r.slotA = true → t.driveA.media = .swap s.settings.swapMs ∧ t.driveA.diskChange = true)
      ∧ (s.driveBOff = true → t.driveB.mounted = none)
      ∧ (s.driveBOff = false → t.driveA.mounted ≠ r.slotB ∨ r.slotB = none →
          t.driveB.mounted = if mounts r.slotB then r.slotB else none)
      ∧ (s.driveBOff = false → t.driveA.mounted = r.slotB → r.slotB ≠ none →
          t.driveB.mounted = none ∧ t.isLatched .mountRefused = true)

/-- An insertion read whose third attempt has failed (R148 to R151). -/
def ReadGivenUp (t : State) (r : InsertionRead) : Prop :=
  match r with
  | .header => t.card.state = .fault ∧ t.isLatched .cardFault = true
  | .settings => Reads t .catalogue 1 ∧ t.settings = Settings.defaults ∧ t.isLatched .settingsBad = true
  | .catalogue => Reads t .volumeState 1 ∧ ∀ i : Fin 100, t.volume.catalogue[i] = none
  | .volumeState =>
    t.card.state = .ready ∧ t.isLatched .unclean = true ∧ t.volume.record.map VolumeRecord.state = some .open

/-- A card error on an insertion read (R148 to R151): the same read again at its next attempt; the third failure ends
in card FAULT for the header, the default settings with SETTINGS_BAD, an invalid catalogue, or an OPEN volume
with UNCLEAN. -/
def Obligations.InsertionReadErrorsRetry : Prop :=
  ∀ (s : State) (r : InsertionRead) (n : Nat), s.steady → Reads s r n →
    let c : Instr := match r with
      | .header => .volumeHeaderReadEnd .error
      | .settings => .settingsReadEnd .error
      | .catalogue => .catalogueReadEnd .error
      | .volumeState => .volumeStateReadEnd .error
    ∃ t, exec c s = .next t ∧ (n < 3 → Reads t r (n + 1)) ∧ (3 ≤ n → ReadGivenUp t r)

/-- The card is put to sleep at the end of an idle drain and woken (R153, R155, R167): a failed wake is REINIT with one
failure; mount requests that waited are decided as the card leaves WAKING. -/
def Obligations.CardSleepsAndWakes : Prop :=
  (∀ s : State, s.steady → s.maySleep = true → s.activeLine = false →
    ∃ t, exec .cardSleep s = .next t ∧ t.card.state = .asleep ∧ t.power.state = .quiet ∧ t.power.job = .none)
  ∧ ∀ s : State, s.powered = true → s.power.job.isRestart = false → s.card.state = .waking →
    (∃ t, exec (.wakeExchangeEnd true) s = .next t ∧ t.card.state = .ready ∧ t.volume.deferred = [])
    ∧ ∃ t, exec (.wakeExchangeEnd false) s = .next t ∧ t.card.state = .reinit .ready 1 ∧ t.volume.deferred = []

/-- A valid volume header and the scratch bases it gives (R148, R187). -/
def HeaderGives (capacity : Nat) (b : List Byte) (sa sb : Nat) : Prop :=
  checkPasses b 31 = true ∧ byteAt b 0 = 1#8 ∧ le32At b 17 = 2 ∧ le16At b 21 = 100
    ∧ sa = le32At b 23 ∧ sb = le32At b 27 ∧ 15 < sa ∧ 15 < sb ∧ sa + 21504 ≤ capacity ∧ sb + 21504 ≤ capacity
    ∧ (sa + 21504 ≤ sb ∨ sb + 21504 ≤ sa)

/-- The settings a settings record gives, and whether SETTINGS_BAD stays unlatched (R190): with a failed check the
defaults; else each field by itself, its default where it is out of range, drive B's line equal to drive A's as OFF,
urgent-off judged against the urgent-on in force. -/
def SettingsGiven (b : List Byte) (t : Settings) (good : Bool) : Prop :=
  let n := fun i => (byteAt b i).toNat
  let w := fun i => le16At b i
  (checkPasses b 20 = false → t = Settings.defaults ∧ good = false)
  ∧ (checkPasses b 20 = true →
    t.selA.val = (if n 0 ≤ 3 then n 0 else 0)
    ∧ t.selB.map Fin.val = (if n 1 ≤ 3 ∧ n 1 ≠ t.selA.val then some (n 1) else none)
    ∧ t.motA = (if n 2 = 1 then .mot1 else if n 2 = 2 then .select else .mot0)
    ∧ t.motB = (if n 3 = 0 then .mot0 else if n 3 = 2 then .select else .mot1)
    ∧ t.line34 = (if n 4 = 1 then .diskchg else .ready)
    ∧ t.settleMs = (if 2 ≤ n 5 ∧ n 5 ≤ 60 then n 5 else 18)
    ∧ t.spinUpMs = (if w 6 ≤ 1000 then w 6 else 250)
    ∧ t.holdLimitMs = (if w 8 ≤ 1500 then w 8 else 400)
    ∧ t.swapMs = (if 200 ≤ w 10 ∧ w 10 ≤ 5000 then w 10 else 1000)
    ∧ t.idleSecs = (if n 12 ≤ 60 then n 12 else 8)
    ∧ t.urgentOn = (if 2 ≤ n 13 ∧ n 13 ≤ 16 then n 13 else 10)
    ∧ t.urgentOff = (if n 14 < t.urgentOn then n 14 else if 4 < t.urgentOn then 4 else t.urgentOn - 1)
    ∧ t.prefetch = decide (n 15 ≠ 0) ∧ t.restoreMounts = decide (n 16 ≠ 0)
    ∧ t.blink = (if n 17 = 1 then .fast else .slow)
    ∧ (∀ i : Fin 12, t.enables[i] = (w 18).testBit i)
    ∧ (good = true ↔
        n 0 ≤ 3 ∧ n 1 ≤ 4 ∧ n 2 ≤ 2 ∧ n 3 ≤ 2 ∧ n 4 ≤ 1 ∧ (2 ≤ n 5 ∧ n 5 ≤ 60) ∧ w 6 ≤ 1000 ∧ w 8 ≤ 1500
          ∧ (200 ≤ w 10 ∧ w 10 ≤ 5000) ∧ n 12 ≤ 60 ∧ (2 ≤ n 13 ∧ n 13 ≤ 16) ∧ n 14 < t.urgentOn
          ∧ n 15 ≤ 1 ∧ n 16 ≤ 1 ∧ n 17 ≤ 1))

/-- The 64 bytes of a valid catalogue entry, and the entry (R150, R187). -/
def EntryGiven (capacity : Nat) (x : List Byte) (e : CatalogueEntry) : Prop :=
  byteAt x 0 = 1#8 ∧ checkPasses x 60 = true
    ∧ e.cylinders = (byteAt x 9).toNat ∧ e.heads = (byteAt x 10).toNat ∧ e.rpm.value = le16At x 11
    ∧ e.rate.kcells = le16At x 13 ∧ e.encoding.code = byteAt x 15
    ∧ (match e.policy with | .direct => 0#8 | .overlay => 1#8 | .locked => 2#8) = byteAt x 16
    ∧ e.base = le32At x 17
    ∧ (e.cylinders = 40 ∨ e.cylinders = 80 ∨ e.cylinders = 82 ∨ e.cylinders = 84) ∧ (e.heads = 1 ∨ e.heads = 2)
    ∧ 15 < e.base ∧ e.base + e.cylinders * e.heads * 2 * 64 ≤ capacity

/-- The insertion reads of the volume header, the settings and the catalogue (R148, R149, R150, R177, R187, R190): a
valid header is kept whole with its scratch bases, one that is not makes the card FAULT; what block 1 gives is in
force at once, with SETTINGS_BAD where the check or a field is bad, and the panel drive is A where drive B's line is
OFF; then the hundred entries, each there exactly while its bytes are valid. -/
def Obligations.InsertionReadsTakeEffect : Prop :=
  ∀ (s : State) (n : Nat), s.steady →
    (Reads s .header n →
      let b := Memory.readBlocks s.card.medium 0 1
      ∃ t, exec (.volumeHeaderReadEnd .complete) s = .next t
        ∧ (∀ sa sb, HeaderGives (s.card.capacity.getD 0) b sa sb →
            Reads t .settings 1 ∧ t.card.header = some b ∧ t.card.scratchA = some sa ∧ t.card.scratchB = some sb)
        ∧ ((∀ sa sb, ¬HeaderGives (s.card.capacity.getD 0) b sa sb) →
            t.card.state = .fault ∧ t.isLatched .cardFault = true ∧ CardForgotten s t))
    ∧ (Reads s .settings n →
      ∃ t good, exec (.settingsReadEnd .complete) s = .next t ∧ Reads t .catalogue 1
        ∧ SettingsGiven (Memory.readBlocks s.card.medium 1 1) t.settings good
        ∧ (t.isLatched .settingsBad = true ↔ s.isLatched .settingsBad = true ∨ good = false)
        ∧ t.panel.drive = (if t.driveBOff then .a else s.panel.drive))
    ∧ (Reads s .catalogue n →
      ∃ t, exec (.catalogueReadEnd .complete) s = .next t ∧ Reads t .volumeState 1
        ∧ ∀ (i : Fin 100) (e : CatalogueEntry), t.volume.catalogue[i] = some e ↔
            EntryGiven (s.card.capacity.getD 0)
              (((Memory.readBlocks s.card.medium 2 13).drop (i.val * 64)).take 64) e)

/-- A flush has failed finally in its slot (R137). -/
def FlushHeld (s t : State) (op : FlushOp) : Prop :=
  t.card.holder = .none ∧ t.card.buffer = none ∧ t.card.writeFault = true ∧ t.isLatched .writeFail = true
    ∧ ((s.slot op.slot).state = .writing → t.slot op.slot = { s.slot op.slot with state := .held })
    ∧ ((s.slot op.slot).state = .discarding → t.slot op.slot = Slot.free)

/-- How the card's holder takes the attempt that timed out, once the card has been re-identified (R144): the same
attempt again up to three, then what a third failure is for it (R106, R116, R117, R131, R136, R137, R148 to R151,
R163). -/
def NextAttempt (s t : State) (back : ReinitReturn) : Prop :=
  (s.card.holder = .none → t.card.holder = .none
    ∧ t.card.state = (match back with | .readingVolume => .readingVolume | .ready => .ready))
  ∧ (∀ r a, back = .readingVolume → s.card.holder = .volumeRead r a →
      (a < 3 → Reads t r (a + 1)) ∧ (3 ≤ a → ReadGivenUp t r))
  ∧ (back = .ready →
    (∀ c a, s.card.holder = .volumeWrite c a → t.card.state = .ready ∧ t.volume.record = s.volume.record
      ∧ (a < 3 → t.card.holder = .volumeWrite c (a + 1))
      ∧ (3 ≤ a → t.card.holder = .none ∧ t.card.writeFault = true ∧ t.isLatched .writeFail = true
          ∧ t.volume.pendingWrite = none))
    ∧ (∀ op, s.card.holder = .loader op → t.card.state = .ready
      ∧ (op.abort = true → t.card.holder = .none ∧ t.slot op.slot = Slot.free)
      ∧ (op.abort = false → op.stage.attempt < 3 →
          t.card.holder = .loader { op with stage := op.stage.retry } ∧ t.cache.slots = s.cache.slots)
      ∧ (op.abort = false → 3 ≤ op.stage.attempt →
          (s.slot op.slot).context.any LoadContext.abandoned = false →
          t.card.holder = .none ∧ (t.slot op.slot).state = .failed ∧ (t.slot op.slot).record = none
            ∧ t.isLatched .readFail = true)
      ∧ (op.abort = false → 3 ≤ op.stage.attempt →
          (s.slot op.slot).context.any LoadContext.abandoned = true →
          t.card.holder = .none ∧ t.slot op.slot = Slot.free))
    ∧ (∀ op, s.card.holder = .flusher op → t.card.state = .ready
      ∧ (op.stage.isWrite = false → op.stage.attempt < 3 →
          t.card.holder = .flusher { op with stage := op.stage.retry } ∧ t.cache.slots = s.cache.slots)
      ∧ (op.stage.isWrite = true ∨ 3 ≤ op.stage.attempt →
          ((s.slot op.slot).attempts < 3 →
            t.card.holder = .flusher { op with stage := if op.stage.isWrite then op.stage else .probe0 1 }
            ∧ t.slot op.slot = { s.slot op.slot with attempts := (s.slot op.slot).attempts + 1 })
          ∧ (3 ≤ (s.slot op.slot).attempts → FlushHeld s t op))))

/-- A transfer times out (R144): REINIT, recording where it was, with failure count 0; the holder keeps its operation,
and of the card's bytes only those of a write in flight may have changed. Then the re-identification attempts (R145):
a failure counts to 3, which is FAULT; block 0 that differs from the kept header is FAULT at once; success returns to
the recorded state, where the holder makes its next attempt. That block 0 as the attempt reads it may have been changed
by other means, and so comes with the command, is the model's choice (log 25). -/
def Obligations.TimeoutsGoThroughReinit : Prop :=
  (∀ s : State, s.steady → s.card.holder ≠ .none → (s.card.state = .ready ∨ s.card.state = .readingVolume) →
    ∃ t, exec .transferTimeout s = .next t
      ∧ t.card.state = .reinit (if s.card.state = .readingVolume then .readingVolume else .ready) 0
      ∧ t.card.holder = s.card.holder ∧ t.card.buffer = s.card.buffer ∧ t.cache.slots = s.cache.slots
      ∧ t.commit = s.commit
      ∧ ∀ a, (∀ block new f, s.writeInFlight = some (block, new, f) →
            a < block * 512 ∨ block * 512 + new.length ≤ a) →
          Memory.read t.card.medium a = Memory.read s.card.medium a)
  ∧ ∀ (s : State) (back : ReinitReturn) (n : Nat), s.steady → s.card.state = .reinit back n →
    (∃ t, exec (.reinitAttemptEnd .failed) s = .next t
      ∧ (n + 1 < 3 → t.card.state = .reinit back (n + 1) ∧ t.card.holder = s.card.holder)
      ∧ (3 ≤ n + 1 → t.card.state = .fault ∧ t.isLatched .cardFault = true ∧ CardForgotten s t))
    ∧ ∀ changed : Option (List Byte),
      let m := match changed with
        | none => s.card.medium
        | some b => Memory.writeBytes s.card.medium 0 (padTo 512 b)
      ∃ t, exec (.reinitAttemptEnd (.block0Read changed)) s = .next t ∧ t.card.medium = m
        ∧ (∀ h, s.card.header = some h → Memory.readBlocks m 0 1 ≠ h →
            t.card.state = .fault ∧ t.isLatched .cardFault = true ∧ CardForgotten s t)
        ∧ ((∀ h, s.card.header = some h → Memory.readBlocks m 0 1 = h) → NextAttempt s t back)

/-! ### Loads -/

/-- LOAD_START at the loader's grant (R100, R105, R107, R126, R188): a cached key only loses its entry; else the lowest
FREE slot, or the least recent evictable one, becomes LOADING with the entry's key, kind and drive, and its entry
leaves the list. The card reads place 0 of the track's own area, or the place its overlay entry names. No other entry
leaves the list but a PREFETCH one with no slot left for it (R104), or one a waiting capture's request puts out
(R99). -/
def Obligations.LoadStartTakesSlot : Prop :=
  ∀ (s : State) (x : LoadEntry) (rest : List LoadEntry), s.steady → s.grant = some .loader →
    s.cache.loads = x :: rest →
    ∃ t, exec .loadStart s = .next t
      ∧ (s.isCached x.key = true → t.card.holder = .none ∧ t.cache.slots = s.cache.slots)
      ∧ (s.loadsLawful → s.cacheLawful → ∀ y ∈ t.cache.loads, y.key ≠ x.key)
      ∧ ((∀ b r, s.buffer b ≠ .waitingMerge r) →
          t.cache.loads.Sublist rest ∧ ∀ y ∈ rest, y.kind = .demand → y ∈ t.cache.loads)
      ∧ (s.isCached x.key = false → ∃ i, s.loadSlot = some i)
      ∧ (∀ i, s.isCached x.key = false → s.loadSlot = some i →
          t.slot i = { Slot.free with
            state := .loading, key := some x.key, origin := .unknown
            context := some { kind := x.kind, drive := x.drive, abandoned := false } }
          ∧ (∀ j, j ≠ i → t.slot j = s.slot j) ∧ i ∈ t.cache.recency
          ∧ (∀ e, s.entry x.key.image = some e →
              (e.policy ≠ .overlay ∨ ∀ d o, s.mountDrive x.key.image = some d →
                (s.drive d).overlayEntry x.key ≠ some o) →
              t.card.holder = .loader
                { slot := i, area := .image
                  base := e.base + (x.key.cylinder * e.heads + x.key.head) * 128, abort := false
                  stage := .probe0 1 })
          ∧ (∀ e d o, s.entry x.key.image = some e → e.policy = .overlay → s.mountDrive x.key.image = some d →
              (s.drive d).overlayEntry x.key = some o →
              t.card.holder = .loader
                { slot := i, area := .scratch
                  base := s.scratchBase d + (x.key.cylinder * 2 + x.key.head) * 128, abort := false
                  stage := .overlayHead 1 o.place o.generation }))

/-- The arbiter's order at an idle card (R126): Volume's pending write; the Flusher while flushing is urgent (R123); the
Loader with a DEMAND head; the Flusher; the Loader with a PREFETCH head when flushing is not urgent (R103); else no
one. Volume asks while its write can be made (R163), the Flusher as R127 says, the Loader as R104 says and not in
EMERGENCY, in SPENT or while the sleep request waits. R126's row for PREFETCH does not name urgency: that R103's condition holds there though the Flusher does
not ask is the model's reading of the two (log 36). -/
def GrantsInOrder (s : State) : Prop :=
  let volume := s.volume.pendingWrite ≠ none ∧ s.card.state = .ready ∧ s.card.writeLocked = false
    ∧ s.card.writeFault = false
  let flusher := s.commit.queue ≠ [] ∧ s.card.state = .ready ∧ s.card.writeFault = false
    ∧ (s.power.state = .run ∨ s.power.state = .drain ∨ s.power.state = .emergency)
    ∧ s.volume.record.map VolumeRecord.state = some .open
  let loader := fun k : LoadKind => s.card.state = .ready ∧ s.isFailing = false ∧ s.power.job ≠ .idleSleep
    ∧ ∃ x rest, s.cache.loads = x :: rest ∧ x.kind = k ∧ (s.hasRoom = true ∨ s.isCached x.key = true)
  (s.card.holder ≠ .none → s.grant = none)
  ∧ (s.card.holder = .none →
    (volume → s.grant = some .volume)
    ∧ (¬volume → flusher → s.isUrgent = true → s.grant = some .flusher)
    ∧ (¬volume → ¬(flusher ∧ s.isUrgent = true) → loader .demand → s.grant = some .loader)
    ∧ (¬volume → ¬loader .demand → flusher → s.grant = some .flusher)
    ∧ (¬volume → ¬loader .demand → ¬flusher → loader .prefetch → s.isUrgent = false → s.grant = some .loader)
    ∧ (¬volume → ¬loader .demand → ¬flusher → ¬(loader .prefetch ∧ s.isUrgent = false) → s.grant = none))
  ∧ (s.isUrgent = true ↔ s.commit.urgent = true ∨ s.drainMode = true
      ∨ ∃ x rest, s.cache.loads = x :: rest ∧ x.kind = .demand ∧ s.isCached x.key = false ∧ s.hasRoom = false)
  ∧ (s.cacheLawful → (s.hasRoom = true ↔ ∃ i, (s.slot i).state = .free ∨ s.isEvictable i = true))

/-- Whom the arbiter grants the card (R123, R126), and the slot a load then takes (R97, R105): the lowest FREE one; with
none FREE, one that is CLEAN or FAILED, whose key is neither pinned nor that of a waiting capture, and less recent than
every other such slot. -/
def Obligations.VictimIsLeastRecentEvictable : Prop :=
  (∀ s : State, GrantsInOrder s)
  ∧ ∀ (s : State) (i : Fin 16), s.loadSlot = some i →
    ((∃ j, (s.slot j).state = .free) → (s.slot i).state = .free ∧ ∀ j, j < i → (s.slot j).state ≠ .free)
    ∧ ((∀ j, (s.slot j).state ≠ .free) →
        ((s.slot i).state = .clean ∨ (s.slot i).state = .failed)
        ∧ (∀ k, (s.slot i).key = some k → s.isPinned k = false
            ∧ ∀ b r, s.buffer b = .waitingMerge r → r.capture.key ≠ k)
        ∧ ∃ newer older, s.cache.recency = newer ++ i :: older ∧ ∀ j ∈ older, s.isEvictable j = false)

/-- A load whose transfer is in flight and that is not to be given up. -/
abbrev Loads (s : State) (op : LoadOp) : Prop :=
  s.card.state = .ready ∧ s.card.holder = .loader op ∧ op.abort = false

/-- A load has ended in its slot with this outcome (R112). -/
def LoadEnded (s t : State) (op : LoadOp) (r : Option Record) (origin : Origin) : Prop :=
  t.card.holder = .none ∧ (∀ j, j ≠ op.slot → t.slot j = s.slot j)
    ∧ t.slot op.slot = { s.slot op.slot with
        state := if r.isSome then .clean else .failed
        record := r
        layout := r.bind Record.layout
        origin := origin
        context := none }

/-- The probe's two reads (R108, R109): place 0, then place 1; a DAMAGED place latches RECORD_BAD. The newer VALID
place is read, place 0 of two that are equal, with the other place to fall back to where that is VALID too; two BLANK
places make an EMPTY record with origin NONE; with no VALID place and one DAMAGED the slot is FAILED. A place whose
stated length is out of range is not read: the slot is FAILED (R110). -/
def Obligations.ProbeChoosesNewerPlace : Prop :=
  (∀ h, lengthGood h = true ↔ 516 ≤ le32At h 24 ∧ le32At h 24 ≤ 32768)
  ∧ ∀ (s : State) (op : LoadOp) (n : Nat), s.steady → Loads s op →
    (op.stage = .probe0 n →
      ∃ t, exec (.probeReadEnd .complete) s = .next t
        ∧ t.card.holder = .loader { op with stage := .probe1 1 (s.readHead op.base .p0) }
        ∧ (placeClass (s.readHead op.base .p0) = .damaged → t.isLatched .recordBad = true)
        ∧ t.cache.slots = s.cache.slots)
    ∧ ∀ h0, op.stage = .probe1 n h0 → (s.slot op.slot).context.any LoadContext.abandoned = false →
      let h1 := s.readHead op.base .p1
      let fallback := fun h : List Byte =>
        match placeClass h with
        | .valid _ => some h
        | _ => none
      ∃ t, exec (.probeReadEnd .complete) s = .next t
        ∧ (placeClass h1 = .damaged → t.isLatched .recordBad = true)
        ∧ (placeClass h0 = .blank → placeClass h1 = .blank → LoadEnded s t op (some .empty) .none)
        ∧ (placeClass h0 = .damaged ∧ (placeClass h1 = .blank ∨ placeClass h1 = .damaged)
            ∨ placeClass h0 = .blank ∧ placeClass h1 = .damaged → LoadEnded s t op none .none)
        ∧ (∀ g0, placeClass h0 = .valid g0 → (∀ g1, placeClass h1 = .valid g1 → g1 ≤ g0) →
            (lengthGood h0 = true → t.card.holder
                = .loader { op with stage := .body 1 .p0 h0 (fallback h1) (.at op.area .p0 g0) })
            ∧ (lengthGood h0 = false →
                LoadEnded s t op none (.at op.area .p0 g0) ∧ t.isLatched .recordBad = true))
        ∧ (∀ g1, placeClass h1 = .valid g1 → (∀ g0, placeClass h0 = .valid g0 → g0 < g1) →
            (lengthGood h1 = true → t.card.holder
                = .loader { op with stage := .body 1 .p1 h1 (fallback h0) (.at op.area .p1 g1) })
            ∧ (lengthGood h1 = false →
                LoadEnded s t op none (.at op.area .p1 g1) ∧ t.isLatched .recordBad = true))

/-- What a load's end makes of the load list while no capture waits (R102, R104): after a DEMAND load in a slot of a
drive that is PRESENT, still stands at its cylinder with its image mounted, and has every key of the cylinder resident,
with prefetch ON, no drain and the queue below urgent-on, the keys of the cylinder next in the drive's last step
direction are added, head 0 first, each while it is not cached and not listed and the list is below six entries and
below the count of FREE and evictable slots. Else nothing is added. PREFETCH entries at the head go while no slot is
FREE or evictable. -/
def PrefetchFollows (s t : State) (i : Fin 16) : Prop :=
  ∀ (x : LoadContext) (k : Key), (s.slot i).context = some x → (s.slot i).key = some k →
    let u := s.drive x.drive
    let open_ := x.kind = .demand ∧ s.settings.prefetch = true ∧ s.drainMode = false
      ∧ s.commit.queue.length < s.settings.urgentOn ∧ u.mounted = some k.image ∧ u.media = .present
      ∧ u.cylinder = k.cylinder ∧ ∀ k' ∈ s.driveKeys x.drive, t.isKeyResident k' = true
    let target := fun cylinders next : Nat => next < cylinders
      ∧ (u.lastDir = .inward → next = u.cylinder + 1) ∧ (u.lastDir = .outward → next + 1 = u.cylinder)
    let room := (slotIds.filter fun j => decide ((t.slot j).state = .free) || t.isEvictable j).length
    let add := fun (l : List LoadEntry) (k' : Key) =>
      if t.isCached k' = false ∧ (∀ y ∈ l, y.key ≠ k') ∧ l.length < 6 ∧ l.length < room then
        l ++ [{ key := k', kind := .prefetch, drive := x.drive }]
      else l
    let trim := fun l : List LoadEntry => if t.hasRoom then l else l.dropWhile fun y => decide (y.kind = .prefetch)
    (∀ e next, open_ → s.entry k.image = some e → target e.cylinders next →
      let k0 : Key := { image := k.image, cylinder := next, head := 0 }
      t.cache.loads = trim ((if e.heads = 2 then [k0, { k0 with head := 1 }] else [k0]).foldl add s.cache.loads))
    ∧ ((¬open_ ∨ ∀ e next, s.entry k.image = some e → ¬target e.cylinders next) →
      t.cache.loads = trim s.cache.loads)

/-- The record read (R110, R20): a record whose check passes and that is well-formed enters the slot, CLEAN, with its
layout table; one that is malformed leaves it FAILED with RECORD_BAD; where the check fails the other VALID place is
read, and with none the slot is FAILED; RECORD_BAD either way. Before an overlay place is read so, its first block must
be VALID with its entry's generation, or the slot is FAILED with RECORD_BAD (R111). Where the load ends in its slot,
prefetch is considered (R102). -/
def Obligations.RecordReadFillsSlot : Prop :=
  (∀ (s : State) (op : LoadOp) (n : Nat) (place : Place) (head : List Byte) (other : Option (List Byte))
    (newest : Origin), s.steady → Loads s op → op.stage = .body n place head other newest →
    (s.slot op.slot).context.any LoadContext.abandoned = false →
    let bs := s.readRecord op.base place head
    ∃ t, exec (.recordReadEnd .complete) s = .next t
      ∧ (∀ r, recordCheckPasses bs = true → s.recordFor op.slot bs = some r →
          LoadEnded s t op (some r) (.at op.area place (headGeneration head)))
      ∧ (recordCheckPasses bs = true → s.recordFor op.slot bs = none →
          LoadEnded s t op none (.at op.area place (headGeneration head)) ∧ t.isLatched .recordBad = true)
      ∧ (∀ h, recordCheckPasses bs = false → other = some h → lengthGood h = true →
          t.card.holder = .loader { op with stage := .body 1 place.other h none newest }
            ∧ t.isLatched .recordBad = true)
      ∧ (recordCheckPasses bs = false → other = none →
          LoadEnded s t op none newest ∧ t.isLatched .recordBad = true)
      ∧ (recordCheckPasses bs = true ∨ other = none → s.cacheLawful → (∀ b r, s.buffer b ≠ .waitingMerge r) →
          PrefetchFollows s t op.slot))
  ∧ ∀ (s : State) (op : LoadOp) (n : Nat) (place : Place) (g : Nat), s.steady → Loads s op →
    op.stage = .overlayHead n place g → (s.slot op.slot).context.any LoadContext.abandoned = false →
    let h := s.readHead op.base place
    ∃ t, exec (.overlayPlaceReadEnd .complete) s = .next t
      ∧ (placeClass h = .valid g → lengthGood h = true →
          t.card.holder = .loader { op with stage := .body 1 place h none (.at op.area place g) })
      ∧ (placeClass h ≠ .valid g →
          LoadEnded s t op none (.at op.area place g) ∧ t.isLatched .recordBad = true)

/-- A load's slot is FREE with the card given back and every other slot as it was; the key, where it is that of the head
cylinder of a drive that is PRESENT and SETTLED, outside EMERGENCY and SPENT, stands in the load list as a DEMAND
entry (R101). An OUTSIDE key is never loaded (R60). -/
def LoadFreed (s t : State) (op : LoadOp) : Prop :=
  t.card.holder = .none ∧ t.slot op.slot = Slot.free ∧ (∀ j, j ≠ op.slot → t.slot j = s.slot j)
    ∧ (s.followed → t.alerts = s.alerts)
    ∧ ∀ d k, s.isFailing = false → (s.slot op.slot).key = some k → (s.drive d).media = .present →
        (s.drive d).motion = .settled → k ∈ s.driveKeys d → s.isOutside k = false →
        s.cacheLawful → s.loadsLawful → DemandsAsked s → ∃ x ∈ t.cache.loads, x.key = k ∧ x.kind = .demand

/-- A load that EMERGENCY gave up ends at its block boundary with its slot FREE and no alert (R116); an abandoned one
runs to its end and its slot is FREE (R117), with no alert of its body read either way, and none for a record length
out of range, which is the model's reading (log 22). A key that is pinned is then requested again (R101). -/
def Obligations.AbortedAndAbandonedLoadsFreeSlot : Prop :=
  ∀ (s : State) (op : LoadOp), s.steady → s.card.state = .ready → s.card.holder = .loader op →
    (op.abort = true → ∃ t, exec .loadAbort s = .next t ∧ LoadFreed s t op)
    ∧ (∀ n place head other newest, op.abort = false → op.stage = .body n place head other newest →
        (s.slot op.slot).context.any LoadContext.abandoned = true →
        (recordCheckPasses (s.readRecord op.base place head) = true ∨ (∀ h, other = some h → lengthGood h = false) →
          ∃ t, exec (.recordReadEnd .complete) s = .next t ∧ LoadFreed s t op)
        ∧ (3 ≤ n → ∃ t, exec (.recordReadEnd .error) s = .next t ∧ LoadFreed s t op))

/-- A card error on a read of a load, or of the flusher's probe (R106, R108, R110, R131): the same read again at its
next attempt, the slot as it was; after the third a load ends FAILED with READ_FAIL. -/
def Obligations.TransferErrorsRetry : Prop :=
  (∀ (s : State) (op : LoadOp), s.steady → Loads s op →
    let c : Instr := match op.stage.read with
      | .probe => .probeReadEnd .error
      | .overlayHead => .overlayPlaceReadEnd .error
      | .body => .recordReadEnd .error
    ∃ t, exec c s = .next t
      ∧ (op.stage.attempt < 3 →
          t.card.holder = .loader { op with stage := op.stage.retry } ∧ t.cache.slots = s.cache.slots)
      ∧ (3 ≤ op.stage.attempt → (s.slot op.slot).context.any LoadContext.abandoned = false →
          t.card.holder = .none ∧ (t.slot op.slot).state = .failed ∧ (t.slot op.slot).record = none
            ∧ t.isLatched .readFail = true))
  ∧ ∀ (s : State) (op : FlushOp), s.steady → s.card.state = .ready → s.card.holder = .flusher op →
    op.stage.isWrite = false → op.stage.attempt < 3 →
    ∃ t, exec (.flushProbeReadEnd .error) s = .next t
      ∧ t.card.holder = .flusher { op with stage := op.stage.retry } ∧ t.cache.slots = s.cache.slots

/-! ### Merges -/

/-- MERGE (R75, R89, R120, R122): a waiting capture whose key is resident, with no earlier release of the same key
waiting, gives the slot the record its class makes with that record's layout table; a CLEAN or FAILED slot becomes
DIRTY at the queue's tail, where the urgent latch is set if the queue has reached urgent-on; a WRITING one is to be
flushed again; a discard latches WRITE_LOST and leaves the slot; the buffer is EMPTY again. -/
def Obligations.MergeAppliesCapture : Prop :=
  ∀ (s : State) (b : BufferId) (r : Released) (i : Fin 16) (e : CatalogueEntry), s.steady →
    s.buffer b = .waitingMerge r → s.mustWait b r = false → s.residentSlot r.capture.key = some i →
    s.entry r.capture.key.image = some e →
    let x := s.slot i
    let target := if x.state = .failed then none else x.record
    let result := classify e target (x.layout.getD []) r
    ∃ t, exec (.merge b) s = .next t ∧ t.buffer b = .empty ∧ (∀ j, j ≠ i → t.slot j = s.slot j)
      ∧ (∀ rec dem, result = .record rec dem →
          (t.slot i).record = some rec ∧ (t.slot i).layout = rec.layout ∧ (t.slot i).key = x.key
            ∧ (t.slot i).origin = x.origin ∧ (t.slot i).attempts = x.attempts
            ∧ (dem = true → t.isLatched .demoted = true)
            ∧ (x.state = .clean ∨ x.state = .failed →
                (t.slot i).state = .dirty ∧ t.commit.queue = s.commit.queue ++ [i]
                  ∧ t.commit.urgent
                    = (if s.settings.urgentOn ≤ s.commit.queue.length + 1 then true else s.commit.urgent))
            ∧ (x.state ≠ .clean → x.state ≠ .failed →
                (t.slot i).state = x.state ∧ t.commit = s.commit)
            ∧ (x.state = .writing → (t.slot i).redirty = true))
      ∧ (result = .discard → t.slot i = x ∧ t.commit = s.commit ∧ t.isLatched .writeLost = true)

/-- When the parse of a full-track write gives a SECTORED record, and which (R82 to R85): its fields in order of mark
position are an index mark or none and then pairs of an ID and a data field; every CRC is correct; the measured gaps
agree within 2 bytes and every one of them lies within its range of R4 (R20); at most 64 sectors fit the revolution.
gap2 and gap3 are the first sector's. With one sector gap3 is what remains to the revolution end, at most 255, measured from the captured
positions, which is the model's reading (log 21). -/
def PromotesParse (c : Capture) (mark : Option Field) (ps : List (Field × Field)) : Prop :=
  let sync : Int := match c.encoding with
    | .mfm => 12
    | .fm => 6
  let marks : Int := match c.encoding with
    | .mfm => 4
    | .fm => 1
  let size := fun p : Field × Field => (byteAt p.1.bytes 3).toNat
  let len : Field × Field → Nat := fun p => 128 * 2 ^ size p
  let apart := fun a b : Nat => (((b + c.cells - a) % c.cells / 16 : Nat) : Int)
  let gap2 := fun p : Field × Field => apart p.1.markPos p.2.markPos - sync - marks - 6
  let gap3 := fun p q : Field × Field => apart p.2.markPos q.1.markPos - sync - marks - len p - 2
  ∀ t : Sectored, promotion c = some t ↔ ∃ p rest, ps = p :: rest
    ∧ (∀ x ∈ ps, x.1.idGood = true ∧ size x ≤ 6 ∧ len x + 2 ≤ x.2.bytes.length
        ∧ crcCorrect c.encoding x.2.kind (x.2.bytes.take (len x)) ((x.2.bytes.drop (len x)).take 2) = true)
    ∧ (∀ x ∈ ps, ∀ y ∈ ps, gap2 x ≤ gap2 y + 2)
    ∧ (∀ x ∈ ps.zip rest, ∀ y ∈ ps.zip rest, gap3 x.1 x.2 ≤ gap3 y.1 y.2 + 2)
    ∧ (∀ x ∈ ps, 1 ≤ gap2 x ∧ gap2 x ≤ 60)
    ∧ (∀ x ∈ ps.zip rest, 1 ≤ gap3 x.1 x.2 ∧ gap3 x.1 x.2 ≤ 255)
    ∧ ps.length ≤ 64 ∧ fitsRevolution t = true
    ∧ t.encoding = c.encoding ∧ t.rate = c.rate ∧ t.cells = c.cells
    ∧ (t.gap4a : Int) = apart 0 (match mark with | some m => m.markPos | none => p.1.markPos) - sync
    ∧ t.gap4a ≤ 200
    ∧ (mark = none → t.gap1 = none)
    ∧ (∀ m, mark = some m → ∃ g : Nat, t.gap1 = some g ∧ g ≤ 100
        ∧ (g : Int) = apart m.markPos p.1.markPos - sync - marks)
    ∧ (t.gap2 : Int) = gap2 p
    ∧ (∀ q tail, rest = q :: tail → (t.gap3 : Int) = gap3 p q)
    ∧ (rest = [] → (t.gap3 : Int)
        = min 255 (((c.cells : Int) - (p.2.markPos + (marks + len p + 2) * 16)) / 16))
    ∧ 1 ≤ t.gap3 ∧ t.gap3 ≤ 255
    ∧ t.sectors = ps.map fun x =>
        { c := byteAt x.1.bytes 0, h := byteAt x.1.bytes 1, r := byteAt x.1.bytes 2, n := byteAt x.1.bytes 3
          mark := if x.2.kind = .deletedData then .deleted else .normal
          idCrcBad := false, dataCrcBad := false, data := some (x.2.bytes.take (len x)) }

/-- Fields in the pattern a parse accepts (R82). -/
def ParsePattern (fs : List Field) (mark : Option Field) (ps : List (Field × Field)) : Prop :=
  fs = mark.toList ++ ps.flatMap (fun p => [p.1, p.2]) ∧ (∀ m, mark = some m → m.kind = .indexMark)
    ∧ ∀ p ∈ ps, p.1.kind = .id ∧ (p.2.kind = .data ∨ p.2.kind = .deletedData)

/-- The classes of R75, first row that holds, and the parse of a full-track write (R82 to R85): the fields are taken in
order of mark position, and a list that breaks the pattern promotes nothing. -/
def Obligations.ClassificationTakesFirstRow : Prop :=
  (∀ (e : CatalogueEntry) (target : Option Record) (rows : List LayoutRow) (r : Released),
    let c := r.capture
    let full := c.start * 64 < c.cells ∧ 1 ≤ c.crossings
    (∀ t, full → promotion c = some t → classify e target rows r = .record (.sectored t) false)
    ∧ (full → promotion c = none → classify e target rows r = .record (.raw (fullTrackRaw c target)) false)
    ∧ (¬full → target = none → classify e target rows r = .discard)
    ∧ (∀ rec, ¬full → target = some rec → rec.rateIn e ≠ c.rate → classify e target rows r = .discard)
    ∧ (∀ t t', ¬full → target = some (.sectored t) → t.rate = c.rate → dataFieldWrite t rows r = some t' →
        classify e target rows r = .record (.sectored t') false)
    ∧ (∀ t, ¬full → target = some (.sectored t) → t.rate = c.rate → dataFieldWrite t rows r = none →
        classify e target rows r = .record (.raw (overlayRecord e (.sectored t) c)) true)
    ∧ (¬full → target = some .empty → e.rate = c.rate →
        classify e target rows r = .record (.raw (overlayRecord e .empty c)) true)
    ∧ (∀ w, ¬full → target = some (.raw w) → w.rate = c.rate →
        classify e target rows r = .record (.raw (overlayRecord e (.raw w) c)) false))
  ∧ (∀ fs : List Field, (sortFields fs).Perm fs ∧ (sortFields fs).Pairwise fun f g => f.markPos ≤ g.markPos)
  ∧ (∀ (c : Capture) (mark : Option Field) (ps : List (Field × Field)),
      ParsePattern (sortFields c.fields) mark ps → PromotesParse c mark ps)
  ∧ ∀ c : Capture, (∀ mark ps, ¬ParsePattern (sortFields c.fields) mark ps) → promotion c = none

/-- The conditions of R78 on one sector, its row of the layout table and the capture's one field, in R78's order. -/
def DataFieldFits (t : Sectored) (x : SectorEntry) (row : LayoutRow) (r : Released) (f : Field) : Prop :=
  (row.idEnd ≤ r.capture.start ∧ r.capture.start < row.dataMarkStart)
    ∧ (f.kind = .data ∨ f.kind = .deletedData)
    ∧ 128 * 2 ^ x.n.toNat + 2 ≤ f.bytes.length
    ∧ (r.indexCrossed = false ∧ r.capture.start ≤ r.endPos)
    ∧ r.endPos ≤ row.nextIdSyncStart
    ∧ (x.data = none → row.dataEnd ≤ 16 * (t.cells / 16))

/-- A data-field write is made on the first sector that meets R78's conditions (no more than one can, R78), and on none
otherwise; the capture is decoded in the record's encoding, which is the model's reading of R77 (log 19). It changes
that sector's entry and nothing else in the record (R79): its data become the first 128 times 2 to the N bytes of the
one captured field, its mark kind that field's, its data CRC flag whether the two bytes after them are not the correct
CRC; ID fields and ID CRC flag stay; the positions of the layout table stay too where the sector had data of that
length (R18). -/
def Obligations.DataFieldWriteChangesOneSector : Prop :=
  (∀ (t t' : Sectored) (rows : List LayoutRow) (r : Released), dataFieldWrite t rows r = some t' →
    { t' with sectors := t.sectors } = t ∧ r.capture.encoding = t.encoding
    ∧ ∃ (k : Nat) (f : Field) (x y : SectorEntry) (row : LayoutRow), r.capture.fields = [f]
      ∧ findSector t r f 0 t.sectors rows = some k
      ∧ t.sectors[k]? = some x ∧ rows[k]? = some row ∧ DataFieldFits t x row r f
      ∧ (∀ (j : Nat) (x' : SectorEntry) (row' : LayoutRow), j < k → t.sectors[j]? = some x' → rows[j]? = some row' →
          ¬DataFieldFits t x' row' r f)
      ∧ t'.sectors[k]? = some y ∧ t'.sectors.length = t.sectors.length
      ∧ (∀ j, j ≠ k → t'.sectors[j]? = t.sectors[j]?)
      ∧ y.c = x.c ∧ y.h = x.h ∧ y.r = x.r ∧ y.n = x.n ∧ y.idCrcBad = x.idCrcBad
      ∧ y.data = some (f.bytes.take (128 * 2 ^ x.n.toNat))
      ∧ (f.kind = .data → y.mark = .normal) ∧ (f.kind = .deletedData → y.mark = .deleted)
      ∧ y.dataCrcBad = !crcCorrect t.encoding f.kind (f.bytes.take (128 * 2 ^ x.n.toNat))
          ((f.bytes.drop (128 * 2 ^ x.n.toNat)).take 2)
      ∧ (∀ bs, x.data = some bs → bs.length = 128 * 2 ^ x.n.toNat → layoutTable t' = layoutTable t))
  ∧ (∀ (t : Sectored) (rows : List LayoutRow) (r : Released) (f : Field) (k : Nat) (x : SectorEntry)
      (row : LayoutRow), r.capture.fields = [f] → r.capture.encoding = t.encoding → t.sectors[k]? = some x →
      rows[k]? = some row → DataFieldFits t x row r f → ∃ t', dataFieldWrite t rows r = some t')
  ∧ ∀ (t : Sectored) (r : Released) (f : Field) (j k : Nat) (x y : SectorEntry) (row row' : LayoutRow),
      t.sectors[j]? = some x → (layoutTable t)[j]? = some row → t.sectors[k]? = some y →
      (layoutTable t)[k]? = some row' → DataFieldFits t x row r f → DataFieldFits t y row' r f → j = k

/-- The element sequence of a render and its layout rows (R10 to R12, R14 to R17), for one sector at its place. The
sector's ID sync starts at its row's first position; sync, ID mark, ID body, CRC and gap2 follow, then, where it has a
data field, sync, data mark, data, CRC and gap3; the next row starts where the sector ends, the
last row's successor at the revolution end. -/
def SectorRendered (t : Sectored) (k : Nat) (x : SectorEntry) (row : LayoutRow) : Prop :=
  let bytes := renderElements t
  let sync := match t.encoding with
    | .mfm => 12
    | .fm => 6
  let marks := match t.encoding with
    | .mfm => 4
    | .fm => 1
  let at_ := fun cell : Nat => bytes.drop (cell / 16)
  let mark := match x.mark with
    | .normal => FieldKind.data
    | .deleted => FieldKind.deletedData
  let len := match x.data with
    | some bs => bs.length
    | none => 128 * 2 ^ x.n.toNat
  row.idSyncStart % 16 = 0
    ∧ (k = 0 → row.idSyncStart = 16 * (t.gap4a + match t.gap1 with
        | none => 0
        | some g => sync + marks + g))
    ∧ row.idEnd = row.idSyncStart + 16 * (sync + marks + 6)
    ∧ row.dataMarkStart = row.idEnd + 16 * (t.gap2 + sync)
    ∧ row.dataEnd = row.dataMarkStart + 16 * (marks + len + 2)
    ∧ (k + 1 = t.sectors.length → row.nextIdSyncStart = t.cells)
    ∧ (k + 1 < t.sectors.length →
        (x.data = none → row.nextIdSyncStart = row.idEnd + 16 * t.gap2)
        ∧ (x.data ≠ none → row.nextIdSyncStart = row.dataEnd + 16 * t.gap3)
        ∧ ∀ row', (layoutTable t)[k + 1]? = some row' → row'.idSyncStart = row.nextIdSyncStart)
    ∧ (at_ row.idSyncStart).take (sync + marks + 6 + t.gap2)
      = List.replicate sync (.plain 0#8) ++ markBytes t.encoding .id
        ++ ([x.c, x.h, x.r, x.n] ++ fieldCrc t.encoding .id [x.c, x.h, x.r, x.n] x.idCrcBad).map .plain
        ++ List.replicate t.gap2 (.plain (fillByte t.encoding))
    ∧ ∀ bs, x.data = some bs →
      (at_ (row.idEnd + 16 * t.gap2)).take (sync + marks + len + 2 + t.gap3)
      = List.replicate sync (.plain 0#8) ++ markBytes t.encoding mark
        ++ (bs ++ fieldCrc t.encoding mark bs x.dataCrcBad).map .plain
        ++ List.replicate t.gap3 (.plain (fillByte t.encoding))

/-- The bytes and cells of which renders are made (R9, R10, R14, R15, R186): fill and mark bytes, the CRC over the
sync-mark bytes (MFM), the mark byte and the body, its complement where it is bad; a data cell is its data bit, a clock
cell of MFM is 1 between two 0 bits, of FM always 1, of a mark as its pattern says. -/
def CellsEncoded : Prop :=
  fillByte .mfm = 0x4E#8 ∧ fillByte .fm = 0xFF#8
  ∧ (∀ k, markBytes .mfm k = (if k = .indexMark then [.syncC2, .syncC2, .syncC2, .plain 0xFC#8]
      else [.syncA1, .syncA1, .syncA1,
        .plain (match k with | .id => 0xFE#8 | .data => 0xFB#8 | _ => 0xF8#8)]))
  ∧ (∀ k, markBytes .fm k = (match k with
      | .id => [.fmMark 0xC7#8 0xFE#8]
      | .data => [.fmMark 0xC7#8 0xFB#8]
      | .deletedData => [.fmMark 0xC7#8 0xF8#8]
      | .indexMark => [.fmMark 0xD7#8 0xFC#8]))
  ∧ (∀ body, crc16 [0xA1#8, 0xA1#8, 0xA1#8] = 0xCDB4#16
      ∧ fieldCrc .mfm .id body false = crc16Bytes (crc16 ([0xA1#8, 0xA1#8, 0xA1#8, 0xFE#8] ++ body))
      ∧ fieldCrc .mfm .data body false = crc16Bytes (crc16 ([0xA1#8, 0xA1#8, 0xA1#8, 0xFB#8] ++ body))
      ∧ fieldCrc .mfm .deletedData body false = crc16Bytes (crc16 ([0xA1#8, 0xA1#8, 0xA1#8, 0xF8#8] ++ body))
      ∧ fieldCrc .fm .id body false = crc16Bytes (crc16 (0xFE#8 :: body))
      ∧ fieldCrc .fm .data body false = crc16Bytes (crc16 (0xFB#8 :: body))
      ∧ fieldCrc .fm .deletedData body false = crc16Bytes (crc16 (0xF8#8 :: body)))
  ∧ (∀ e k body, fieldCrc e k body true = (fieldCrc e k body false).map fun b => ~~~b)
  ∧ (∀ bs : List Byte, crc16 (bs ++ crc16Bytes (crc16 bs)) = 0#16)
  ∧ crc16 [0x31#8, 0x32#8, 0x33#8, 0x34#8, 0x35#8, 0x36#8, 0x37#8, 0x38#8, 0x39#8] = 0x29B1#16
  ∧ (∀ e prev v i, i < 8 →
      (byteCells e prev (.plain v)).length = 16
      ∧ (byteCells e prev (.plain v))[2 * i + 1]? = some (v.getLsbD (7 - i))
      ∧ (byteCells e prev (.plain v))[2 * i]? = some (match e with
          | .fm => true
          | .mfm => !(if i = 0 then prev else v.getLsbD (8 - i)) && !v.getLsbD (7 - i)))
  ∧ (∀ e prev, byteCells e prev .syncA1 = byteBits 0x44#8 ++ byteBits 0x89#8
      ∧ byteCells e prev .syncC2 = byteBits 0x52#8 ++ byteBits 0x24#8)
  ∧ (∀ e prev clock v i, i < 8 →
      (byteCells e prev (.fmMark clock v))[2 * i]? = some (clock.getLsbD (7 - i))
      ∧ (byteCells e prev (.fmMark clock v))[2 * i + 1]? = some (v.getLsbD (7 - i)))

/-- A revolution has exactly its cells per revolution, rendered or blank, whatever the record holds (R2, R9, R12, R59),
and the six values of R2. A render is gap4a, the index mark part, the sectors with their IDs, CRCs and data, cut at the
revolution end, then fill (R11, R12), and its cells are those of its bytes (R9, R13, R186); the layout table has a row
for each sector, at the places where its parts stand (R16, R17). An overlay keeps the length, lays the captured cells
one to a position from where the first was recorded, on past the last position to 0, and leaves every other cell
(R80). -/
def Obligations.RevolutionsKeepTheirCells : Prop :=
  (∀ t : Sectored, (renderCells t).length = t.cells)
  ∧ (∀ (e : Encoding) (cells : Nat), (blankCells e cells).length = cells)
  ∧ cellsPerRev .k250 .r300 = 50000 ∧ cellsPerRev .k500 .r300 = 100000 ∧ cellsPerRev .k1000 .r300 = 200000
  ∧ cellsPerRev .k250 .r360 = 41667 ∧ cellsPerRev .k500 .r360 = 83333 ∧ cellsPerRev .k1000 .r360 = 166667
  ∧ CellsEncoded
  ∧ (∀ (t : Sectored) (k : Nat) (x : SectorEntry) (row : LayoutRow), t.sectors[k]? = some x →
      (layoutTable t)[k]? = some row → SectorRendered t k x row)
  ∧ (∀ t : Sectored, (layoutTable t).length = t.sectors.length
      ∧ (renderElements t).take (t.gap4a)
        = List.replicate t.gap4a (.plain (fillByte t.encoding))
      ∧ (∀ g, t.gap1 = some g → ∃ sync, sync = List.replicate (if t.encoding = .mfm then 12 else 6) (.plain 0#8)
          ∧ ((renderElements t).drop t.gap4a).take (sync.length + (markBytes t.encoding .indexMark).length + g)
            = sync ++ markBytes t.encoding .indexMark ++ List.replicate g (.plain (fillByte t.encoding)))
      ∧ (∀ x, t.sectors.getLast? = some x →
          (renderElements t).length = requiredLength t + (if x.data = none then t.gap2 else t.gap3))
      ∧ (t.sectors = [] → (renderElements t).length = requiredLength t)
      ∧ (fitsRevolution t = true ↔ requiredLength t ≤ t.cells / 16)
      ∧ renderBytes t = (renderElements t).take (t.cells / 16)
        ++ List.replicate (t.cells / 16 - (renderElements t).length) (.plain (fillByte t.encoding))
      ∧ ∀ i b, (renderBytes t)[i]? = some b → ∃ prev,
          ((renderCells t).drop (16 * i)).take 16 = byteCells t.encoding prev b
          ∧ (∀ j b', i = j + 1 → (renderBytes t)[j]? = some b' → prev = b'.lastBit)
          ∧ (i = 0 → t.cells % 16 < 2 → ∀ b', (renderBytes t).getLast? = some b' → prev = b'.lastBit)
          ∧ (i = 0 → 2 ≤ t.cells % 16 → prev = (fillByte t.encoding).getLsbD (8 - t.cells % 16 / 2)))
  ∧ ∀ (ring laid : List Bool) (pos : Nat), pos < ring.length → laid.length ≤ ring.length →
    (layOver ring pos laid).length = ring.length
    ∧ (∀ j, j < laid.length → (layOver ring pos laid)[(pos + j) % ring.length]? = laid[j]?)
    ∧ ∀ j, laid.length ≤ j → j < ring.length →
        (layOver ring pos laid)[(pos + j) % ring.length]? = ring[(pos + j) % ring.length]?

/-! ### Flushes -/

/-- The target of a flush (R132): the place other than the origin's with the next generation, place 0 with generation 1
for NONE, and none at the largest generation. -/
def Obligations.FlushTargetIsOtherPlace : Prop :=
  flushTarget .none = some (.p0, 1)
  ∧ (∀ area g, g < 4294967295 → flushTarget (.at area .p0 g) = some (.p1, g + 1))
  ∧ (∀ area g, g < 4294967295 → flushTarget (.at area .p1 g) = some (.p0, g + 1))
  ∧ ∀ area place, flushTarget (.at area place 4294967295) = none

/-- A flush has its target: the place and generation filled into the snapshot, and its write begun; or, with none, it
has failed at once (R132, R133, R137). -/
def FlushAimed (t : State) (op : FlushOp) (snapshot : List Byte) (origin : Origin) : Prop :=
  match flushTarget origin with
  | some (place, generation) =>
    t.card.holder = .flusher { op with stage := .write place generation }
      ∧ t.card.buffer = some (fillTarget snapshot op.key.cylinder op.key.head generation)
      ∧ (t.slot op.slot).state = .writing
  | none =>
    t.card.holder = .none ∧ t.card.buffer = none ∧ t.card.writeFault = true ∧ t.isLatched .writeFail = true
      ∧ (t.slot op.slot).state = .held

/-- FLUSH_START at the flusher's grant (R126, R129, R130, R131): the queue head leaves the queue and becomes WRITING at
its first attempt, its record is serialised into the card transfer buffer; a DIRECT image's track goes to its own
places, probed first if its origin is UNKNOWN; an OVERLAY image's to the scratch area of the drive it is mounted in,
from the overlay table's entry. -/
def Obligations.FlushStartTakesQueueHead : Prop :=
  ∀ (s : State) (i : Fin 16) (rest : List (Fin 16)) (k : Key) (r : Record) (e : CatalogueEntry), s.steady →
    s.grant = some .flusher → s.commit.queue = i :: rest → (s.slot i).key = some k → (s.slot i).record = some r →
    s.entry k.image = some e → (e.policy = .direct ∨ e.policy = .overlay ∧ s.mountDrive k.image ≠ none) →
    let snapshot := serialise r k.cylinder k.head 0
    ∃ t, exec .flushStart s = .next t ∧ t.commit.queue = rest
      ∧ t.commit.urgent = (if rest.length ≤ s.settings.urgentOff then false else s.commit.urgent)
      ∧ (t.slot i).redirty = false ∧ (t.slot i).attempts = 1 ∧ (t.slot i).key = some k ∧ (t.slot i).record = some r
      ∧ (∀ j, j ≠ i → t.slot j = s.slot j)
      ∧ (e.policy = .direct →
          let op : FlushOp :=
            { slot := i, key := k, area := .image, drive := none
              base := e.base + (k.cylinder * e.heads + k.head) * 128, stage := .probe0 1 }
          ((s.slot i).origin = .unknown →
            t.card.holder = .flusher op ∧ t.card.buffer = some snapshot ∧ (t.slot i).state = .writing)
          ∧ ((s.slot i).origin ≠ .unknown → FlushAimed t op snapshot (s.slot i).origin))
      ∧ (∀ d, e.policy = .overlay → s.mountDrive k.image = some d →
          let op : FlushOp :=
            { slot := i, key := k, area := .scratch, drive := some d
              base := s.scratchBase d + (k.cylinder * 2 + k.head) * 128, stage := .probe0 1 }
          ((s.drive d).overlayEntry k = none → FlushAimed t op snapshot .none)
          ∧ ∀ o, (s.drive d).overlayEntry k = some o →
              FlushAimed t op snapshot (.at .scratch o.place o.generation))

/-- The flusher's probe (R131): place 0, then place 1, a DAMAGED one latching RECORD_BAD; with neither VALID the origin
is NONE, with one VALID it is that place; of two the newer one's record is checked, which is the origin if the check
passes and gives way to the other, with RECORD_BAD, if it fails. The origin is written into the slot at once. -/
def Obligations.FlushProbeFindsOrigin : Prop :=
  ∀ (s : State) (op : FlushOp) (n : Nat) (snapshot : List Byte), s.steady → s.card.state = .ready →
    s.card.holder = .flusher op → s.card.buffer = some snapshot → (s.slot op.slot).state = .writing →
    let found : State → Origin → Prop := fun t o => (t.slot op.slot).origin = o ∧ FlushAimed t op snapshot o
    let h1 := s.readHead op.base .p1
    (op.stage = .probe0 n →
      ∃ t, exec (.flushProbeReadEnd .complete) s = .next t
        ∧ t.card.holder = .flusher { op with stage := .probe1 1 (s.readHead op.base .p0) }
        ∧ t.card.buffer = some snapshot
        ∧ (placeClass (s.readHead op.base .p0) = .damaged → t.isLatched .recordBad = true))
    ∧ (∀ h0, op.stage = .probe1 n h0 →
      ∃ t, exec (.flushProbeReadEnd .complete) s = .next t
        ∧ (placeClass h1 = .damaged → t.isLatched .recordBad = true)
        ∧ ((∀ g, placeClass h0 ≠ .valid g) → (∀ g, placeClass h1 ≠ .valid g) → found t .none)
        ∧ (∀ g0, placeClass h0 = .valid g0 → (∀ g, placeClass h1 ≠ .valid g) → found t (.at op.area .p0 g0))
        ∧ (∀ g1, (∀ g, placeClass h0 ≠ .valid g) → placeClass h1 = .valid g1 → found t (.at op.area .p1 g1))
        ∧ (∀ g0 g1, placeClass h0 = .valid g0 → placeClass h1 = .valid g1 → g1 ≤ g0 → lengthGood h0 = true →
            t.card.holder = .flusher { op with stage := .check 1 .p0 h0 g1 } ∧ t.card.buffer = some snapshot)
        ∧ (∀ g0 g1, placeClass h0 = .valid g0 → placeClass h1 = .valid g1 → g0 < g1 → lengthGood h1 = true →
            t.card.holder = .flusher { op with stage := .check 1 .p1 h1 g0 } ∧ t.card.buffer = some snapshot))
    ∧ ∀ place head g, op.stage = .check n place head g →
      ∃ t, exec (.flushProbeReadEnd .complete) s = .next t
        ∧ (recordCheckPasses (s.readRecord op.base place head) = true →
            found t (.at op.area place (headGeneration head)))
        ∧ (recordCheckPasses (s.readRecord op.base place head) = false →
            found t (.at op.area place.other g) ∧ t.isLatched .recordBad = true)

/-- FLUSH_WRITE_END (R122, R133, R134, R135): the record stands in the target place in whole blocks, the buffer and the
card are given back. A WRITING slot has its origin there and no attempts; it is CLEAN, or DIRTY at the queue's tail
where a merge came meanwhile, and the urgent latch is set there if the queue has reached urgent-on; the overlay table
of the drive holds the track's place and generation. A DISCARDING slot is FREE and the tables stand. -/
def Obligations.FlushWriteEndCompletesFlush : Prop :=
  ∀ (s : State) (op : FlushOp) (place : Place) (g : Nat) (bs : List Byte), s.steady → s.card.state = .ready →
    s.card.holder = .flusher op → op.stage = .write place g → s.card.buffer = some bs →
    let x := s.slot op.slot
    ∃ t, exec .flushWriteEnd s = .next t ∧ t.card.holder = .none ∧ t.card.buffer = none
      ∧ t.card.medium = Memory.writeBytes s.card.medium
          ((op.base + (match place with | .p0 => 0 | .p1 => 64)) * 512) (inBlocks bs)
      ∧ (∀ j, j ≠ op.slot → t.slot j = s.slot j)
      ∧ (x.state = .writing →
          t.slot op.slot = { x with
            state := if x.redirty then .dirty else .clean
            origin := .at op.area place g
            redirty := false
            attempts := 0 }
          ∧ t.commit = (if x.redirty then
              { queue := s.commit.queue ++ [op.slot]
                urgent := if s.settings.urgentOn ≤ s.commit.queue.length + 1 then true else s.commit.urgent }
            else s.commit)
          ∧ ∀ d, op.drive = some d →
              (t.drive d).overlayEntry op.key
                = some { cylinder := op.key.cylinder, head := op.key.head, place := place, generation := g })
      ∧ (x.state = .discarding →
          t.slot op.slot = Slot.free ∧ t.commit = s.commit ∧ ∀ d, (t.drive d).overlay = (s.drive d).overlay)

/-- FLUSH_ATTEMPT_FAILURE (R136, R137): up to three attempts the same snapshot is written to the same place with the
same generation; the third failure is final: a WRITING slot is HELD as it stands, a DISCARDING one FREE, the card is
in write fault with WRITE_FAIL and WPROT on both drives, the buffer and the card are given back. -/
def Obligations.FlushFailuresRetryThenHold : Prop :=
  ∀ (s : State) (op : FlushOp) (place : Place) (g : Nat), s.steady → s.card.state = .ready →
    s.card.holder = .flusher op → op.stage = .write place g →
    let x := s.slot op.slot
    ∃ t, exec .flushAttemptFailure s = .next t ∧ t.commit = s.commit
      ∧ (x.attempts < 3 →
          t.card.holder = .flusher op ∧ t.card.buffer = s.card.buffer
            ∧ t.slot op.slot = { x with attempts := x.attempts + 1 })
      ∧ (3 ≤ x.attempts →
          t.card.holder = .none ∧ t.card.buffer = none ∧ t.card.writeFault = true ∧ t.isLatched .writeFail = true
            ∧ t.wprot .a = true ∧ t.wprot .b = true
            ∧ (x.state = .writing → t.slot op.slot = { x with state := .held })
            ∧ (x.state = .discarding → t.slot op.slot = Slot.free))

/-! ### The volume -/

/-- What stands at the end of every command about drains and the volume's mark on the card. Drain mode is on only while
something is to be flushed or written (R124); a close waits only while its write is pending or in flight (R167, R170,
R172); while a flush is asked for and the volume is CLEAN on an unbarred card, the OPEN marker is pending or in flight
(R128). That this is taken at the end of each command is the model's choice (log 26), and that the marker is asked for
once its reading (log 15). -/
def ClosingFollows (t : State) : Prop :=
  (t.drainMode = true → t.anyWriting = true ∨ t.commit.queue ≠ [] ∧ t.card.writeFault = false)
  ∧ (t.power.job.isClosing = true → t.volume.pendingWrite ≠ none ∨ ∃ c n, t.card.holder = .volumeWrite c n)
  ∧ (t.commit.queue ≠ [] → (∀ op, t.card.holder ≠ .flusher op) → t.card.state = .ready → t.writesBarred = false →
      (t.power.state = .run ∨ t.power.state = .drain ∨ t.power.state = .emergency) →
      t.volume.record.map VolumeRecord.state = some .clean →
      t.volume.pendingWrite = some .open ∨ ∃ c n, t.card.holder = .volumeWrite c n ∧ c.state = .open)

/-- A drain ends (R167 step 1, R170): with the record OPEN and the card neither write-locked nor in write fault the
CLEAN write is requested and the close waits for it; with no record, a CLEAN one or a barred card there is nothing to
write, and the idle drain asks for sleep, the emergency drain is SPENT. -/
def ClosesVolume (s t : State) : Prop :=
  (s.volume.record.map VolumeRecord.state = some .open → s.writesBarred = false →
    t.power.job.isClosing = true ∧ t.volume.pendingWrite = some .clean)
  ∧ (s.volume.record.map VolumeRecord.state ≠ some .open ∨ s.writesBarred = true →
    t.power.state = .spent ∨ t.power.job = .idleSleep)

/-- The volume state write (R162, R163, R187): at its grant its content is fixed, a target of CLEAN kept only while the
queue is empty and no slot is WRITING; a completed one stands in block 15 and is the record; an error is retried twice,
and the third failure is write fault with WRITE_FAIL and the record as it was. The block as written reads back as that
content. A drain's end closes the volume (R167, R170), and the OPEN marker comes before the first flush (R128). Three clauses
are the model's reading: a refused close goes back to its drain at the grant already (log 16), the third failure drops
a pending write (log 15), and the recorded state is written as it is, CLEAN with a queue too (log 41). -/
def Obligations.VolumeStateWriteFixesContent : Prop :=
  (∀ (s : State) (r : VolumeRecord) (w : WriteTarget), s.steady → s.grant = some .volume →
    s.volume.record = some r → s.volume.pendingWrite = some w →
    ∃ t, exec .volumeStateWriteStart s = .next t ∧ t.volume.record = some r
      ∧ t.card.holder = .volumeWrite
          { state := match w with
              | .recorded => r.state
              | .open => .open
              | .clean => if s.commit.queue = [] ∧ s.anyWriting = false then .clean else .open
            slotA := s.driveA.mounted
            slotB := s.driveB.mounted
            count := r.count + 1 } 1
      ∧ (w = .clean → s.activeLine = false → s.power.job.isClosing = true →
          s.commit.queue ≠ [] ∨ s.anyWriting = true → t.power.job.isDraining = true))
  ∧ (∀ (s : State) (c : VolumeRecord) (n : Nat), s.steady → s.card.state = .ready →
    s.card.holder = .volumeWrite c n →
    (∃ t, exec (.volumeStateWriteEnd .complete) s = .next t ∧ t.card.holder = .none ∧ t.volume.record = some c
      ∧ t.card.medium = Memory.writeBytes s.card.medium (15 * 512) (volumeStateBlock c)
      ∧ (c.state = .clean → s.power.job = .emergency .closing → t.power.state = .spent)
      ∧ (c.state = .clean → s.power.job = .idle .closing → s.activeLine = false → t.power.job = .idleSleep))
    ∧ ∃ t, exec (.volumeStateWriteEnd .error) s = .next t ∧ t.volume.record = s.volume.record
      ∧ (n < 3 → t.card.holder = .volumeWrite c (n + 1))
      ∧ (3 ≤ n → t.card.holder = .none ∧ t.card.writeFault = true ∧ t.isLatched .writeFail = true
          ∧ t.volume.pendingWrite = none))
  ∧ (∀ c : VolumeRecord, (∀ n, c.slotA = some n → n < 100) → (∀ n, c.slotB = some n → n < 100) →
    parseVolumeState (volumeStateBlock c) = some c)
  ∧ (∀ (i : Instr) (s t : State), exec i s = .next t → t.powered = true → ClosingFollows t)
  ∧ (∀ s : State, s.steady → s.lines.pfw = false → s.isFailing = false → s.commit.queue = [] →
      s.anyWriting = false → ∃ t, exec .pfwAssert s = .next t ∧ ClosesVolume s t)
  ∧ ∀ (s : State) (op : FlushOp) (place : Place) (g : Nat), s.steady → s.activeLine = false →
      s.power.job = .idle .draining → s.card.state = .ready → s.card.holder = .flusher op →
      op.stage = .write place g → (s.slot op.slot).redirty = false → s.commit.queue = [] →
      (∀ j, j ≠ op.slot → (s.slot j).state ≠ .writing) →
      ∃ t, exec .flushWriteEnd s = .next t ∧ ClosesVolume s t

/-- A mount taken for a drive (R155, R156): BROWSE's ENTER on another slot than the one mounted, or rEV on the one that
is, in a powered part that is not failing, with the card READY, the entry valid, the slot not mounted in the other
drive, and not for a drive B whose line is OFF. Any other such request is refused with MOUNT_REFUSED and nothing
else. ENTER on "--" unmounts. The page is left. -/
def Obligations.MountRequestsAreDecided : Prop :=
  ∀ (s : State) (i : Nat), s.steady → s.card.state ≠ .waking → s.card.state ≠ .asleep → s.panel.enter.isFresh = true →
    let d := s.panel.drive
    let taken := s.isFailing = false ∧ s.card.state = .ready ∧ s.entry i ≠ none
      ∧ (s.drive (otherDrive d)).mounted ≠ some i ∧ (d = .a ∨ s.driveBOff = false)
    (∀ c : Instr,
      (c = .browseEnter ∧ s.panel.page = .browse (some i) ∧ (s.drive d).mounted ≠ some i
        ∨ c = .serviceRev ∧ s.panel.page = .service .revert ∧ (s.drive d).mounted = some i) →
      ∃ t, exec c s = .next t ∧ (t.panel.page = .normal ∨ t.panel.page = .alert)
        ∧ (taken →
            (t.drive d).mounted = some i ∧ (t.drive d).media = .swap s.settings.swapMs
              ∧ (t.drive d).diskChange = true ∧ (t.drive d).overlay = []
              ∧ (t.drive d).cylinder = (s.drive d).cylinder
              ∧ (t.drive (otherDrive d)).mounted = (s.drive (otherDrive d)).mounted)
        ∧ (¬taken → t.isLatched .mountRefused = true ∧ t.cache.slots = s.cache.slots
            ∧ ∀ x, (t.drive x).mounted = (s.drive x).mounted ∧ (t.drive x).media = (s.drive x).media
              ∧ (t.drive x).diskChange = (s.drive x).diskChange))
    ∧ (s.panel.page = .browse none → s.isFailing = false → (d = .a ∨ s.driveBOff = false) →
      ∃ t, exec .browseEnter s = .next t ∧ (t.drive d).mounted = none
        ∧ (∀ j, (s.drive d).mounted = some j →
            (t.drive d).media = .noMedia ∧ (t.drive d).diskChange = true ∧ (t.drive d).overlay = [])
        ∧ (t.drive (otherDrive d)).mounted = (s.drive (otherDrive d)).mounted)
    ∧ (s.panel.page = .browse (s.drive d).mounted →
      ∃ t, exec .browseEnter s = .next t ∧ t.cache.slots = s.cache.slots
        ∧ ∀ x, (t.drive x).mounted = (s.drive x).mounted ∧ (t.drive x).media = (s.drive x).media)

/-- At the unmount of an image its slots change by its policy (R118, R158, R159): an OVERLAY image's CLEAN, FAILED,
HELD and DIRTY slots are FREE, the DIRTY ones out of the queue, a WRITING one is DISCARDING and has given up its key, a
LOADING one is abandoned; of a DIRECT or LOCKED image only FAILED slots go. Slots of other images stand, and the
drive's waiting captures are lost. -/
def Obligations.UnmountTreatsSlotsByPolicy : Prop :=
  ∀ (s : State) (i : Nat) (e : CatalogueEntry), s.steady → s.cacheLawful → s.isFailing = false →
    s.card.state ≠ .waking → s.card.state ≠ .asleep → s.panel.enter.isFresh = true → s.panel.page = .browse none →
    (s.drive s.panel.drive).mounted = some i → (s.panel.drive = .a ∨ s.driveBOff = false) → s.entry i = some e →
    ∃ t, exec .browseEnter s = .next t
      ∧ (∀ j, (∀ k, (s.slot j).key = some k → k.image ≠ i) → t.slot j = s.slot j)
      ∧ (∀ j k, (s.slot j).key = some k → k.image = i → e.policy = .overlay →
          ((s.slot j).state = .clean ∨ (s.slot j).state = .failed ∨ (s.slot j).state = .held
              ∨ (s.slot j).state = .dirty → t.slot j = Slot.free)
          ∧ ((s.slot j).state = .writing →
              (t.slot j).state = .discarding ∧ (t.slot j).key = none ∧ (t.slot j).record = none)
          ∧ ((s.slot j).state = .loading →
              (t.slot j).state = .loading ∧ (t.slot j).context.any LoadContext.abandoned = true))
      ∧ (∀ j k, (s.slot j).key = some k → k.image = i → e.policy ≠ .overlay →
          ((s.slot j).state = .failed → t.slot j = Slot.free)
          ∧ ((s.slot j).state ≠ .failed → t.slot j = s.slot j))
      ∧ t.commit.queue = (if e.policy = .overlay
          then s.commit.queue.filter fun j => !(s.slot j).key.any fun k => decide (k.image = i) else s.commit.queue)
      ∧ (∀ b r, s.buffer b = .waitingMerge r → r.capture.drive = s.panel.drive →
          t.buffer b = .empty ∧ t.isLatched .writeLost = true)
      ∧ ∀ x ∈ t.cache.loads, x.key.image = i → ∃ b r, s.buffer b = .waitingMerge r ∧ r.capture.key = x.key

/-! ### Restart -/

/-- rSt (R172, R173): in RUN, DRAIN or QUIET with no restart in progress the part is in RUN and the restart's drain is
on while a slot is to be flushed or written; with nothing to flush and no volume to close, and when the closing CLEAN
write completes, everything of the card is discarded and a card in use is identified afresh. -/
def Obligations.RestartDrainsThenDiscards : Prop :=
  (∀ s : State, s.steady → s.isFailing = false → s.card.state ≠ .waking → s.card.state ≠ .asleep →
    s.panel.page = .service .restart → s.panel.enter.isFresh = true →
    ∃ t, exec .serviceRst s = .next t ∧ t.power.state = .run ∧ t.power.idle = 0
      ∧ (s.anyWriting = true ∨ s.commit.queue ≠ [] ∧ s.card.writeFault = false →
          t.power.job = .restart .draining ∧ t.drainMode = true ∧ t.cache.slots = s.cache.slots)
      ∧ (s.anyWriting = false → s.commit.queue = [] → s.volume.record = none →
          CardForgotten s t ∧ t.power.job = .none ∧ t.power.flsh = false
            ∧ t.card.state = (match s.card.state with
                | .settling => .settling
                | .absent => .absent
                | .fault => .fault
                | _ => .identifying 0)))
  ∧ ∀ (s : State) (c : VolumeRecord) (n : Nat), s.powered = true → s.volume.deferred = [] →
    s.power.job = .restart .closing → s.power.state = .run → s.card.state = .ready →
    s.card.holder = .volumeWrite c n → c.state = .clean →
    ∃ t, exec (.volumeStateWriteEnd .complete) s = .next t ∧ CardForgotten s t ∧ t.power.state = .run
      ∧ t.power.job = .none ∧ t.card.state = .identifying 0 ∧ t.card.writeLocked = s.lines.lockSwitch

/-! ### The panel -/

/-- Keys, blink, panel drive and acknowledge (R175, R176, R177, R181): a debounced press and release, PREV and NEXT down
together as a chord unless one is stale, a press in NORMAL taken as single at its release; the blink turns on BROWSE
and ALERT; the ENTER hold toggles the panel drive in NORMAL with the lock off and drive B's line not OFF, once a
press; the chord on ALERT clears the latch shown, which ALERT follows, and leaves its keys stale. -/
def Obligations.KeysAndAlertsAct : Prop :=
  ∀ s : State, s.steady → s.followed →
    (∀ k, ∃ t, exec (.keyDebounce k true) s = .next t
      ∧ (t.panel.key k).pressed = true ∧ (t.panel.key k).stale = (s.panel.key k).stale
      ∧ (∀ k', k' ≠ k → (t.panel.key k').pressed = (s.panel.key k').pressed
          ∧ (t.panel.key k').stale = (s.panel.key k').stale)
      ∧ (t.panel.prev.pressed = true → t.panel.next.pressed = true → t.panel.prev.stale = false →
          t.panel.next.stale = false → t.panel.prev.chorded = true ∧ t.panel.next.chorded = true))
    ∧ (∀ k, ∃ t, exec (.keyDebounce k false) s = .next t
      ∧ (t.panel.key k).pressed = false ∧ (t.panel.key k).stale = false
      ∧ (t.panel.key k).clicked
          = (decide (s.panel.page = .normal) && decide (k ≠ .enter) && (s.panel.key k).isFresh)
      ∧ ∀ k', k' ≠ k → (t.panel.key k').pressed = (s.panel.key k').pressed
          ∧ (t.panel.key k').stale = (s.panel.key k').stale)
    ∧ (s.panel.page.kind = .browse ∨ s.panel.page.kind = .alert →
      ∃ t, exec .blinkHalfPeriod s = .next t ∧ t.panel.blinkLit = (!s.panel.blinkLit) ∧ t.panel.page = s.panel.page)
    ∧ (s.panel.page = .normal → s.panel.enter.isFresh = true →
      ∃ t, exec .panelDriveToggle s = .next t
        ∧ (s.panel.lock = false → s.driveBOff = false →
            t.panel.drive = otherDrive s.panel.drive ∧ t.panel.enter.isFresh = false)
        ∧ (s.panel.lock = true ∨ s.driveBOff = true → t.panel.drive = s.panel.drive))
    ∧ (∀ i, s.panel.page = .alert → s.panel.chordLive = true → s.shownLatch = some i →
      ∃ t, exec .alertAcknowledge s = .next t
        ∧ (∀ j : Fin 12, t.alerts[j] = if j = i then false else s.alerts[j])
        ∧ t.panel.prev.stale = true ∧ t.panel.next.stale = true
        ∧ t.panel.page = if t.shownLatch.isSome then .alert else .normal)

/-- The pages (R178, R179, R180, R182): a single press of PREV or NEXT in NORMAL enters BROWSE on the mounted slot
unless the lock is on, a chord held enters SERVICE on the lock item; the steps go round their rings; the time-outs
give NORMAL, or ALERT where an enabled latch is set. A page change leaves the keys then pressed stale. -/
def Obligations.PagesFollowKeys : Prop :=
  (∀ s : State, s.steady → s.followed →
    (s.panel.page = .normal → s.panel.prev.clicked = true ∨ s.panel.next.clicked = true →
      ∃ t, exec .browseEntry s = .next t
        ∧ (s.panel.lock = false →
            t.panel.page = .browse (s.drive s.panel.drive).mounted ∧ t.panel.blinkLit = true
              ∧ ∀ k, (t.panel.key k).pressed = true → (t.panel.key k).stale = true)
        ∧ (s.panel.lock = true → t.panel.page = .normal))
    ∧ (s.panel.page = .normal → s.panel.chordLive = true →
      ∃ t, exec .serviceEntry s = .next t ∧ t.panel.page = .service .lock
        ∧ t.panel.prev.stale = true ∧ t.panel.next.stale = true)
    ∧ (∀ c forward, s.panel.page = .browse c → (s.panel.key (stepKey forward)).isFresh = true →
      ∃ t, exec (.browseStep forward) s = .next t ∧ t.panel.page = .browse (ringStep s.validSlots forward c)
        ∧ t.panel.blinkLit = (if ringStep s.validSlots forward c = c then s.panel.blinkLit else true))
    ∧ (∀ i forward, s.panel.page = .service i → (s.panel.key (stepKey forward)).isFresh = true →
      ∃ t, exec (.serviceStep forward) s = .next t ∧ t.panel.page = .service (i.step s.panel.lock forward))
    ∧ (s.panel.page.kind = .browse →
      ∃ t, exec .browseTimeout s = .next t ∧ t.panel.page = if s.shownLatch.isSome then .alert else .normal)
    ∧ (s.panel.page.kind = .service →
      ∃ t, exec .serviceTimeout s = .next t ∧ t.panel.page = if s.shownLatch.isSome then .alert else .normal))
  ∧ (∀ (s : State) (c : Option Nat) (j : Nat),
      (ringStep s.validSlots true c = some j ↔
        s.entry j ≠ none ∧ j < 100 ∧ (∀ i, c = some i → i < j)
          ∧ ∀ x, s.entry x ≠ none → x < 100 → (∀ i, c = some i → i < x) → j ≤ x)
      ∧ (ringStep s.validSlots false c = some j ↔
        s.entry j ≠ none ∧ j < 100 ∧ (∀ i, c = some i → j < i)
          ∧ ∀ x, s.entry x ≠ none → x < 100 → (∀ i, c = some i → x < i) → x ≤ j))
  ∧ ([ServiceItem.lock, .revert, .flush, .restart, .queueLength, .endItem].map fun i => i.step false true)
      = [.revert, .flush, .restart, .queueLength, .endItem, .lock]
  ∧ (∀ i : ServiceItem, (i.step false true).step false false = i)
  ∧ ServiceItem.lock.step true true = .endItem ∧ ServiceItem.endItem.step true true = .lock
  ∧ ServiceItem.lock.step true false = .endItem ∧ ServiceItem.endItem.step true false = .lock

/-- ENTER on a service item leaves the page and acts (R183, R184): the lock item toggles the panel lock, FLSH turns
drain mode on until its drain ends, at once where nothing is to be flushed or written; q nn and End do nothing. -/
def Obligations.ServiceItemsAct : Prop :=
  ∀ s : State, s.steady → s.followed → s.panel.enter.isFresh = true →
    let left := fun t : State => t.panel.page = (if s.shownLatch.isSome then Page.alert else .normal)
      ∧ t.cache.slots = s.cache.slots ∧ t.commit = s.commit ∧ t.alerts = s.alerts
    (s.panel.page = .service .lock →
      ∃ t, exec .serviceLoc s = .next t ∧ left t ∧ t.panel.lock = !s.panel.lock)
    ∧ (s.panel.page = .service .flush →
      ∃ t, exec .serviceFlsh s = .next t ∧ left t
        ∧ (s.anyWriting = true ∨ s.commit.queue ≠ [] ∧ s.card.writeFault = false →
            t.power.flsh = true ∧ t.drainMode = true)
        ∧ (s.anyWriting = false → s.commit.queue = [] ∨ s.card.writeFault = true → t.power.flsh = false))
    ∧ (s.panel.page = .service .queueLength →
      ∃ t, exec .serviceQueueLength s = .next t ∧ left t ∧ t.panel.lock = s.panel.lock)
    ∧ (s.panel.page = .service .endItem →
      ∃ t, exec .serviceEnd s = .next t ∧ left t ∧ t.panel.lock = s.panel.lock)

/-! ### What commands leave unchanged -/

/-- Which commands may change the settings, the input lines, the write guard, the heads, the release count, the
recovery timer, the panel drive and the panel lock, and clear an alert latch: no other command does. -/
def Obligations.RegistersChangeOnlyByTheirCommands : Prop :=
  ∀ (c : Instr) (s t : State), exec c s = .next t → c ≠ .powerOn → c ≠ .powerLoss →
    t.powered = s.powered
    ∧ ((∀ r, c ≠ .settingsReadEnd r) → (∀ r, c ≠ .reinitAttemptEnd r) → t.settings = s.settings)
    ∧ ((∀ a b d e, c ≠ .selectLineChange a b d e) → (∀ a b, c ≠ .motorLineChange a b) → (∀ d, c ≠ .step d) →
        (∀ x, c ≠ .sideChange x) → c ≠ .wgateAssert → c ≠ .wgateRelease → c ≠ .pfwAssert → c ≠ .pfwRelease →
        (∀ x, c ≠ .cardDetectAssert x) → c ≠ .cardRemoval → t.lines = s.lines)
    ∧ (c ≠ .pfwAssert → c ≠ .recoveryTimerExpiry → c ≠ .writeGuardExpiry → t.cable.guard = s.cable.guard)
    ∧ (∀ d, ((∀ x, c ≠ .step x) ∨ s.selected ≠ some d) →
        (t.drive d).cylinder = (s.drive d).cylinder ∧ (t.drive d).lastDir = (s.drive d).lastDir
          ∧ (c ≠ .settleExpiry d → (t.drive d).motion = (s.drive d).motion))
    ∧ (c ≠ .wgateRelease → t.capture.releases = s.capture.releases)
    ∧ (c ≠ .pfwAssert → c ≠ .pfwRelease → c ≠ .recoveryTimerExpiry → t.power.recovery = s.power.recovery)
    ∧ (c ≠ .panelDriveToggle → (∀ r, c ≠ .settingsReadEnd r) → (∀ r, c ≠ .reinitAttemptEnd r) →
        t.panel.drive = s.panel.drive)
    ∧ (c ≠ .serviceLoc → t.panel.lock = s.panel.lock)
    ∧ (c ≠ .alertAcknowledge → ∀ a, s.isLatched a = true → t.isLatched a = true)

/-- Which commands may change what the part stores, in a part with no restart in progress and no mount request waiting:
the card's bytes outside a write in flight change only with the card itself; the slots, the commit queue, the
catalogue, the volume record and the mounts only by the card's, the loader's, the merge's, the flusher's and the mount
commands. -/
def Obligations.StoreChangesOnlyByItsCommands : Prop :=
  ∀ (c : Instr) (s t : State), s.steady → exec c s = .next t →
    ((∀ x, c ≠ .cardDetectAssert x) → c ≠ .cardRemoval → (∀ x, c ≠ .reinitAttemptEnd (.block0Read (some x))) →
      ∀ a, (∀ block new f, s.writeInFlight = some (block, new, f) →
          a < block * 512 ∨ block * 512 + new.length ≤ a) →
        Memory.read t.card.medium a = Memory.read s.card.medium a)
    ∧ (c ∈ ([.wgateAssert, .wgateRelease, .pfwAssert, .pfwRelease,
          .recoveryTimerExpiry, .debounceExpiry, .holdLimitExpiry, .writeGuardExpiry, .arrivalAtIndex,
          .indexWindowEnd, .idleCounterAdvance, .transferTimeout, .cardSleep, .blinkHalfPeriod, .browseEntry,
          .browseTimeout, .serviceEntry, .serviceTimeout, .serviceLoc, .serviceFlsh, .serviceQueueLength, .serviceEnd,
          .panelDriveToggle, .alertAcknowledge, .volumeStateWriteStart] : List Instr)
        ∨ (∃ a b d e, c = .selectLineChange a b d e) ∨ (∃ a b, c = .motorLineChange a b) ∨ (∃ x, c = .step x)
        ∨ (∃ x, c = .sideChange x) ∨ (∃ d, c = .spinUpExpiry d) ∨ (∃ d, c = .settleExpiry d)
        ∨ (∃ d, c = .swapIntervalExpiry d) ∨ (∃ x, c = .cardDetectAssert x) ∨ (∃ x, c = .wakeExchangeEnd x)
        ∨ (∃ k x, c = .keyDebounce k x) ∨ (∃ x, c = .browseStep x) ∨ (∃ x, c = .serviceStep x)
        ∨ (∃ x, c = .cellTime x) →
      t.cache.slots = s.cache.slots ∧ t.commit = s.commit ∧ t.volume.catalogue = s.volume.catalogue
        ∧ t.volume.record = s.volume.record ∧ ∀ d, (t.drive d).mounted = (s.drive d).mounted)

/-! ### Invariants -/

/-- Every step keeps the laws of the cache, the recency order and the commit queue (R92, R96, R119), whatever command
waits. -/
def Obligations.StepKeepsCacheLaws : Prop :=
  ∀ s t : State, s.cacheLawful → step s = .next t → t.cacheLawful

/-- Every step keeps the load list's laws (R98), the counter within its revolution (R45), the head cylinders and the
idle counter in range (R32, R165), the settings in range (R190), the job the Power Unit carries out in agreement with
the power state, and the card's bytes in their canonical form. -/
def Obligations.StepKeepsRegisterLaws : Prop :=
  ∀ s t : State, step s = .next t →
    (s.loadsLawful → t.loadsLawful)
    ∧ (s.rotationLawful → t.rotationLawful)
    ∧ (s.rangesLawful → t.rangesLawful)
    ∧ (s.settings.lawful = true → t.settings.lawful = true)
    ∧ (s.jobFollows = true → t.jobFollows = true)
    ∧ (Memory.wf s.card.medium = true → Memory.wf t.card.medium = true)

/-- The state after reset has all of these laws. -/
def Obligations.ResetIsLawful : Prop :=
  State.reset.cacheLawful ∧ State.reset.loadsLawful ∧ State.reset.rotationLawful ∧ State.reset.rangesLawful
    ∧ State.reset.settings.lawful = true ∧ State.reset.jobFollows = true
    ∧ Memory.wf State.reset.card.medium = true ∧ State.reset.followed ∧ State.reset.steady

/-! ### Records on the card -/

/-- Every well-formed SECTORED or RAW record of an image, serialised for its track, reads back as itself; its header's
block is a VALID place of that generation, the header states the length, the record check passes, and filling in a
target changes no more than the track and the generation (R19, R21, R108, R132, R188, R189). -/
def Obligations.RecordsReadBackFromCard : Prop :=
  ∀ (e : CatalogueEntry) (k : Key) (r : Record) (g : Nat), r.lawful e = true → k.cylinder < 256 → k.head < 256 →
    1 ≤ g → g ≤ 4294967295 →
    let bs := serialise r k.cylinder k.head g
    parseRecord e k bs = some r ∧ bs.length = r.serialisedLength ∧ recordLength bs = r.serialisedLength
      ∧ placeClass (bs.take 512) = .valid g ∧ recordCheckPasses bs = true
      ∧ fillTarget (serialise r k.cylinder k.head 0) k.cylinder k.head g = bs

end
end

