-- ==== Sys2Proof/Laws/State.lean ====
section
/-! SUPPORT. What each update of a part of the state leaves unchanged: one lemma per field per update. -/

namespace Sys2Proof.Machine

/-! latch -/

@[simp] theorem State.latch_powered (s : State) (a : Alert) : (s.latch a).powered = s.powered := rfl
@[simp] theorem State.latch_lines (s : State) (a : Alert) : (s.latch a).lines = s.lines := rfl
@[simp] theorem State.latch_settings (s : State) (a : Alert) : (s.latch a).settings = s.settings := rfl
@[simp] theorem State.latch_cable (s : State) (a : Alert) : (s.latch a).cable = s.cable := rfl
@[simp] theorem State.latch_driveA (s : State) (a : Alert) : (s.latch a).driveA = s.driveA := rfl
@[simp] theorem State.latch_driveB (s : State) (a : Alert) : (s.latch a).driveB = s.driveB := rfl
@[simp] theorem State.latch_rotation (s : State) (a : Alert) : (s.latch a).rotation = s.rotation := rfl
@[simp] theorem State.latch_capture (s : State) (a : Alert) : (s.latch a).capture = s.capture := rfl
@[simp] theorem State.latch_cache (s : State) (a : Alert) : (s.latch a).cache = s.cache := rfl
@[simp] theorem State.latch_commit (s : State) (a : Alert) : (s.latch a).commit = s.commit := rfl
@[simp] theorem State.latch_card (s : State) (a : Alert) : (s.latch a).card = s.card := rfl
@[simp] theorem State.latch_volume (s : State) (a : Alert) : (s.latch a).volume = s.volume := rfl
@[simp] theorem State.latch_power (s : State) (a : Alert) : (s.latch a).power = s.power := rfl
@[simp] theorem State.latch_panel (s : State) (a : Alert) : (s.latch a).panel = s.panel := rfl
@[simp] theorem State.latch_freeCount (s : State) (a : Alert) : (s.latch a).freeCount = s.freeCount := rfl
@[simp] theorem State.latch_pending (s : State) (a : Alert) : (s.latch a).pending = s.pending := rfl

/-! latchIf -/

@[simp] theorem State.latchIf_powered (s : State) (c : Bool) (a : Alert) : (s.latchIf c a).powered = s.powered := by cases c <;> rfl
@[simp] theorem State.latchIf_lines (s : State) (c : Bool) (a : Alert) : (s.latchIf c a).lines = s.lines := by cases c <;> rfl
@[simp] theorem State.latchIf_settings (s : State) (c : Bool) (a : Alert) : (s.latchIf c a).settings = s.settings := by cases c <;> rfl
@[simp] theorem State.latchIf_cable (s : State) (c : Bool) (a : Alert) : (s.latchIf c a).cable = s.cable := by cases c <;> rfl
@[simp] theorem State.latchIf_driveA (s : State) (c : Bool) (a : Alert) : (s.latchIf c a).driveA = s.driveA := by cases c <;> rfl
@[simp] theorem State.latchIf_driveB (s : State) (c : Bool) (a : Alert) : (s.latchIf c a).driveB = s.driveB := by cases c <;> rfl
@[simp] theorem State.latchIf_rotation (s : State) (c : Bool) (a : Alert) : (s.latchIf c a).rotation = s.rotation := by cases c <;> rfl
@[simp] theorem State.latchIf_capture (s : State) (c : Bool) (a : Alert) : (s.latchIf c a).capture = s.capture := by cases c <;> rfl
@[simp] theorem State.latchIf_cache (s : State) (c : Bool) (a : Alert) : (s.latchIf c a).cache = s.cache := by cases c <;> rfl
@[simp] theorem State.latchIf_commit (s : State) (c : Bool) (a : Alert) : (s.latchIf c a).commit = s.commit := by cases c <;> rfl
@[simp] theorem State.latchIf_card (s : State) (c : Bool) (a : Alert) : (s.latchIf c a).card = s.card := by cases c <;> rfl
@[simp] theorem State.latchIf_volume (s : State) (c : Bool) (a : Alert) : (s.latchIf c a).volume = s.volume := by cases c <;> rfl
@[simp] theorem State.latchIf_power (s : State) (c : Bool) (a : Alert) : (s.latchIf c a).power = s.power := by cases c <;> rfl
@[simp] theorem State.latchIf_panel (s : State) (c : Bool) (a : Alert) : (s.latchIf c a).panel = s.panel := by cases c <;> rfl
@[simp] theorem State.latchIf_freeCount (s : State) (c : Bool) (a : Alert) : (s.latchIf c a).freeCount = s.freeCount := by cases c <;> rfl
@[simp] theorem State.latchIf_pending (s : State) (c : Bool) (a : Alert) : (s.latchIf c a).pending = s.pending := by cases c <;> rfl

/-! clearLatch -/

@[simp] theorem State.clearLatch_powered (s : State) (i : Fin 12) : (s.clearLatch i).powered = s.powered := rfl
@[simp] theorem State.clearLatch_lines (s : State) (i : Fin 12) : (s.clearLatch i).lines = s.lines := rfl
@[simp] theorem State.clearLatch_settings (s : State) (i : Fin 12) : (s.clearLatch i).settings = s.settings := rfl
@[simp] theorem State.clearLatch_cable (s : State) (i : Fin 12) : (s.clearLatch i).cable = s.cable := rfl
@[simp] theorem State.clearLatch_driveA (s : State) (i : Fin 12) : (s.clearLatch i).driveA = s.driveA := rfl
@[simp] theorem State.clearLatch_driveB (s : State) (i : Fin 12) : (s.clearLatch i).driveB = s.driveB := rfl
@[simp] theorem State.clearLatch_rotation (s : State) (i : Fin 12) : (s.clearLatch i).rotation = s.rotation := rfl
@[simp] theorem State.clearLatch_capture (s : State) (i : Fin 12) : (s.clearLatch i).capture = s.capture := rfl
@[simp] theorem State.clearLatch_cache (s : State) (i : Fin 12) : (s.clearLatch i).cache = s.cache := rfl
@[simp] theorem State.clearLatch_commit (s : State) (i : Fin 12) : (s.clearLatch i).commit = s.commit := rfl
@[simp] theorem State.clearLatch_card (s : State) (i : Fin 12) : (s.clearLatch i).card = s.card := rfl
@[simp] theorem State.clearLatch_volume (s : State) (i : Fin 12) : (s.clearLatch i).volume = s.volume := rfl
@[simp] theorem State.clearLatch_power (s : State) (i : Fin 12) : (s.clearLatch i).power = s.power := rfl
@[simp] theorem State.clearLatch_panel (s : State) (i : Fin 12) : (s.clearLatch i).panel = s.panel := rfl
@[simp] theorem State.clearLatch_freeCount (s : State) (i : Fin 12) : (s.clearLatch i).freeCount = s.freeCount := rfl
@[simp] theorem State.clearLatch_pending (s : State) (i : Fin 12) : (s.clearLatch i).pending = s.pending := rfl

/-! setDrive -/

@[simp] theorem State.setDrive_powered (s : State) (d : Drive) (u : DriveUnit) : (s.setDrive d u).powered = s.powered := by cases d <;> rfl
@[simp] theorem State.setDrive_lines (s : State) (d : Drive) (u : DriveUnit) : (s.setDrive d u).lines = s.lines := by cases d <;> rfl
@[simp] theorem State.setDrive_settings (s : State) (d : Drive) (u : DriveUnit) : (s.setDrive d u).settings = s.settings := by cases d <;> rfl
@[simp] theorem State.setDrive_cable (s : State) (d : Drive) (u : DriveUnit) : (s.setDrive d u).cable = s.cable := by cases d <;> rfl
@[simp] theorem State.setDrive_rotation (s : State) (d : Drive) (u : DriveUnit) : (s.setDrive d u).rotation = s.rotation := by cases d <;> rfl
@[simp] theorem State.setDrive_capture (s : State) (d : Drive) (u : DriveUnit) : (s.setDrive d u).capture = s.capture := by cases d <;> rfl
@[simp] theorem State.setDrive_cache (s : State) (d : Drive) (u : DriveUnit) : (s.setDrive d u).cache = s.cache := by cases d <;> rfl
@[simp] theorem State.setDrive_commit (s : State) (d : Drive) (u : DriveUnit) : (s.setDrive d u).commit = s.commit := by cases d <;> rfl
@[simp] theorem State.setDrive_card (s : State) (d : Drive) (u : DriveUnit) : (s.setDrive d u).card = s.card := by cases d <;> rfl
@[simp] theorem State.setDrive_volume (s : State) (d : Drive) (u : DriveUnit) : (s.setDrive d u).volume = s.volume := by cases d <;> rfl
@[simp] theorem State.setDrive_power (s : State) (d : Drive) (u : DriveUnit) : (s.setDrive d u).power = s.power := by cases d <;> rfl
@[simp] theorem State.setDrive_panel (s : State) (d : Drive) (u : DriveUnit) : (s.setDrive d u).panel = s.panel := by cases d <;> rfl
@[simp] theorem State.setDrive_alerts (s : State) (d : Drive) (u : DriveUnit) : (s.setDrive d u).alerts = s.alerts := by cases d <;> rfl
@[simp] theorem State.setDrive_freeCount (s : State) (d : Drive) (u : DriveUnit) : (s.setDrive d u).freeCount = s.freeCount := by cases d <;> rfl
@[simp] theorem State.setDrive_pending (s : State) (d : Drive) (u : DriveUnit) : (s.setDrive d u).pending = s.pending := by cases d <;> rfl

/-! joinHeld -/

@[simp] theorem State.joinHeld_powered (s : State) (d : Drive) (k : Key) : (s.joinHeld d k).powered = s.powered := by cases d <;> rfl
@[simp] theorem State.joinHeld_lines (s : State) (d : Drive) (k : Key) : (s.joinHeld d k).lines = s.lines := by cases d <;> rfl
@[simp] theorem State.joinHeld_settings (s : State) (d : Drive) (k : Key) : (s.joinHeld d k).settings = s.settings := by cases d <;> rfl
@[simp] theorem State.joinHeld_cable (s : State) (d : Drive) (k : Key) : (s.joinHeld d k).cable = s.cable := by cases d <;> rfl
@[simp] theorem State.joinHeld_rotation (s : State) (d : Drive) (k : Key) : (s.joinHeld d k).rotation = s.rotation := by cases d <;> rfl
@[simp] theorem State.joinHeld_capture (s : State) (d : Drive) (k : Key) : (s.joinHeld d k).capture = s.capture := by cases d <;> rfl
@[simp] theorem State.joinHeld_cache (s : State) (d : Drive) (k : Key) : (s.joinHeld d k).cache = s.cache := by cases d <;> rfl
@[simp] theorem State.joinHeld_commit (s : State) (d : Drive) (k : Key) : (s.joinHeld d k).commit = s.commit := by cases d <;> rfl
@[simp] theorem State.joinHeld_card (s : State) (d : Drive) (k : Key) : (s.joinHeld d k).card = s.card := by cases d <;> rfl
@[simp] theorem State.joinHeld_volume (s : State) (d : Drive) (k : Key) : (s.joinHeld d k).volume = s.volume := by cases d <;> rfl
@[simp] theorem State.joinHeld_power (s : State) (d : Drive) (k : Key) : (s.joinHeld d k).power = s.power := by cases d <;> rfl
@[simp] theorem State.joinHeld_panel (s : State) (d : Drive) (k : Key) : (s.joinHeld d k).panel = s.panel := by cases d <;> rfl
@[simp] theorem State.joinHeld_alerts (s : State) (d : Drive) (k : Key) : (s.joinHeld d k).alerts = s.alerts := by cases d <;> rfl
@[simp] theorem State.joinHeld_freeCount (s : State) (d : Drive) (k : Key) : (s.joinHeld d k).freeCount = s.freeCount := by cases d <;> rfl
@[simp] theorem State.joinHeld_pending (s : State) (d : Drive) (k : Key) : (s.joinHeld d k).pending = s.pending := by cases d <;> rfl

/-! setBuffer -/

@[simp] theorem State.setBuffer_powered (s : State) (b : BufferId) (x : CaptureBuffer) : (s.setBuffer b x).powered = s.powered := by cases b <;> rfl
@[simp] theorem State.setBuffer_lines (s : State) (b : BufferId) (x : CaptureBuffer) : (s.setBuffer b x).lines = s.lines := by cases b <;> rfl
@[simp] theorem State.setBuffer_settings (s : State) (b : BufferId) (x : CaptureBuffer) : (s.setBuffer b x).settings = s.settings := by cases b <;> rfl
@[simp] theorem State.setBuffer_cable (s : State) (b : BufferId) (x : CaptureBuffer) : (s.setBuffer b x).cable = s.cable := by cases b <;> rfl
@[simp] theorem State.setBuffer_driveA (s : State) (b : BufferId) (x : CaptureBuffer) : (s.setBuffer b x).driveA = s.driveA := by cases b <;> rfl
@[simp] theorem State.setBuffer_driveB (s : State) (b : BufferId) (x : CaptureBuffer) : (s.setBuffer b x).driveB = s.driveB := by cases b <;> rfl
@[simp] theorem State.setBuffer_rotation (s : State) (b : BufferId) (x : CaptureBuffer) : (s.setBuffer b x).rotation = s.rotation := by cases b <;> rfl
@[simp] theorem State.setBuffer_cache (s : State) (b : BufferId) (x : CaptureBuffer) : (s.setBuffer b x).cache = s.cache := by cases b <;> rfl
@[simp] theorem State.setBuffer_commit (s : State) (b : BufferId) (x : CaptureBuffer) : (s.setBuffer b x).commit = s.commit := by cases b <;> rfl
@[simp] theorem State.setBuffer_card (s : State) (b : BufferId) (x : CaptureBuffer) : (s.setBuffer b x).card = s.card := by cases b <;> rfl
@[simp] theorem State.setBuffer_volume (s : State) (b : BufferId) (x : CaptureBuffer) : (s.setBuffer b x).volume = s.volume := by cases b <;> rfl
@[simp] theorem State.setBuffer_power (s : State) (b : BufferId) (x : CaptureBuffer) : (s.setBuffer b x).power = s.power := by cases b <;> rfl
@[simp] theorem State.setBuffer_panel (s : State) (b : BufferId) (x : CaptureBuffer) : (s.setBuffer b x).panel = s.panel := by cases b <;> rfl
@[simp] theorem State.setBuffer_alerts (s : State) (b : BufferId) (x : CaptureBuffer) : (s.setBuffer b x).alerts = s.alerts := by cases b <;> rfl
@[simp] theorem State.setBuffer_freeCount (s : State) (b : BufferId) (x : CaptureBuffer) : (s.setBuffer b x).freeCount = s.freeCount := by cases b <;> rfl
@[simp] theorem State.setBuffer_pending (s : State) (b : BufferId) (x : CaptureBuffer) : (s.setBuffer b x).pending = s.pending := by cases b <;> rfl

/-! mapCapturing -/

@[simp] theorem State.mapCapturing_powered (s : State) (f : Capture → Capture) : (s.mapCapturing f).powered = s.powered := rfl
@[simp] theorem State.mapCapturing_lines (s : State) (f : Capture → Capture) : (s.mapCapturing f).lines = s.lines := rfl
@[simp] theorem State.mapCapturing_settings (s : State) (f : Capture → Capture) : (s.mapCapturing f).settings = s.settings := rfl
@[simp] theorem State.mapCapturing_cable (s : State) (f : Capture → Capture) : (s.mapCapturing f).cable = s.cable := rfl
@[simp] theorem State.mapCapturing_driveA (s : State) (f : Capture → Capture) : (s.mapCapturing f).driveA = s.driveA := rfl
@[simp] theorem State.mapCapturing_driveB (s : State) (f : Capture → Capture) : (s.mapCapturing f).driveB = s.driveB := rfl
@[simp] theorem State.mapCapturing_rotation (s : State) (f : Capture → Capture) : (s.mapCapturing f).rotation = s.rotation := rfl
@[simp] theorem State.mapCapturing_cache (s : State) (f : Capture → Capture) : (s.mapCapturing f).cache = s.cache := rfl
@[simp] theorem State.mapCapturing_commit (s : State) (f : Capture → Capture) : (s.mapCapturing f).commit = s.commit := rfl
@[simp] theorem State.mapCapturing_card (s : State) (f : Capture → Capture) : (s.mapCapturing f).card = s.card := rfl
@[simp] theorem State.mapCapturing_volume (s : State) (f : Capture → Capture) : (s.mapCapturing f).volume = s.volume := rfl
@[simp] theorem State.mapCapturing_power (s : State) (f : Capture → Capture) : (s.mapCapturing f).power = s.power := rfl
@[simp] theorem State.mapCapturing_panel (s : State) (f : Capture → Capture) : (s.mapCapturing f).panel = s.panel := rfl
@[simp] theorem State.mapCapturing_alerts (s : State) (f : Capture → Capture) : (s.mapCapturing f).alerts = s.alerts := rfl
@[simp] theorem State.mapCapturing_freeCount (s : State) (f : Capture → Capture) : (s.mapCapturing f).freeCount = s.freeCount := rfl
@[simp] theorem State.mapCapturing_pending (s : State) (f : Capture → Capture) : (s.mapCapturing f).pending = s.pending := rfl

/-! setSlot -/

@[simp] theorem State.setSlot_powered (s : State) (i : Fin 16) (x : Slot) : (s.setSlot i x).powered = s.powered := rfl
@[simp] theorem State.setSlot_lines (s : State) (i : Fin 16) (x : Slot) : (s.setSlot i x).lines = s.lines := rfl
@[simp] theorem State.setSlot_settings (s : State) (i : Fin 16) (x : Slot) : (s.setSlot i x).settings = s.settings := rfl
@[simp] theorem State.setSlot_cable (s : State) (i : Fin 16) (x : Slot) : (s.setSlot i x).cable = s.cable := rfl
@[simp] theorem State.setSlot_driveA (s : State) (i : Fin 16) (x : Slot) : (s.setSlot i x).driveA = s.driveA := rfl
@[simp] theorem State.setSlot_driveB (s : State) (i : Fin 16) (x : Slot) : (s.setSlot i x).driveB = s.driveB := rfl
@[simp] theorem State.setSlot_rotation (s : State) (i : Fin 16) (x : Slot) : (s.setSlot i x).rotation = s.rotation := rfl
@[simp] theorem State.setSlot_capture (s : State) (i : Fin 16) (x : Slot) : (s.setSlot i x).capture = s.capture := rfl
@[simp] theorem State.setSlot_commit (s : State) (i : Fin 16) (x : Slot) : (s.setSlot i x).commit = s.commit := rfl
@[simp] theorem State.setSlot_card (s : State) (i : Fin 16) (x : Slot) : (s.setSlot i x).card = s.card := rfl
@[simp] theorem State.setSlot_volume (s : State) (i : Fin 16) (x : Slot) : (s.setSlot i x).volume = s.volume := rfl
@[simp] theorem State.setSlot_power (s : State) (i : Fin 16) (x : Slot) : (s.setSlot i x).power = s.power := rfl
@[simp] theorem State.setSlot_panel (s : State) (i : Fin 16) (x : Slot) : (s.setSlot i x).panel = s.panel := rfl
@[simp] theorem State.setSlot_alerts (s : State) (i : Fin 16) (x : Slot) : (s.setSlot i x).alerts = s.alerts := rfl
@[simp] theorem State.setSlot_freeCount (s : State) (i : Fin 16) (x : Slot) : (s.setSlot i x).freeCount = s.freeCount := rfl
@[simp] theorem State.setSlot_pending (s : State) (i : Fin 16) (x : Slot) : (s.setSlot i x).pending = s.pending := rfl

/-! toFront -/

@[simp] theorem State.toFront_powered (s : State) (i : Fin 16) : (s.toFront i).powered = s.powered := rfl
@[simp] theorem State.toFront_lines (s : State) (i : Fin 16) : (s.toFront i).lines = s.lines := rfl
@[simp] theorem State.toFront_settings (s : State) (i : Fin 16) : (s.toFront i).settings = s.settings := rfl
@[simp] theorem State.toFront_cable (s : State) (i : Fin 16) : (s.toFront i).cable = s.cable := rfl
@[simp] theorem State.toFront_driveA (s : State) (i : Fin 16) : (s.toFront i).driveA = s.driveA := rfl
@[simp] theorem State.toFront_driveB (s : State) (i : Fin 16) : (s.toFront i).driveB = s.driveB := rfl
@[simp] theorem State.toFront_rotation (s : State) (i : Fin 16) : (s.toFront i).rotation = s.rotation := rfl
@[simp] theorem State.toFront_capture (s : State) (i : Fin 16) : (s.toFront i).capture = s.capture := rfl
@[simp] theorem State.toFront_commit (s : State) (i : Fin 16) : (s.toFront i).commit = s.commit := rfl
@[simp] theorem State.toFront_card (s : State) (i : Fin 16) : (s.toFront i).card = s.card := rfl
@[simp] theorem State.toFront_volume (s : State) (i : Fin 16) : (s.toFront i).volume = s.volume := rfl
@[simp] theorem State.toFront_power (s : State) (i : Fin 16) : (s.toFront i).power = s.power := rfl
@[simp] theorem State.toFront_panel (s : State) (i : Fin 16) : (s.toFront i).panel = s.panel := rfl
@[simp] theorem State.toFront_alerts (s : State) (i : Fin 16) : (s.toFront i).alerts = s.alerts := rfl
@[simp] theorem State.toFront_freeCount (s : State) (i : Fin 16) : (s.toFront i).freeCount = s.freeCount := rfl
@[simp] theorem State.toFront_pending (s : State) (i : Fin 16) : (s.toFront i).pending = s.pending := rfl

/-! free -/

@[simp] theorem State.free_powered (s : State) (i : Fin 16) : (s.free i).powered = s.powered := rfl
@[simp] theorem State.free_lines (s : State) (i : Fin 16) : (s.free i).lines = s.lines := rfl
@[simp] theorem State.free_settings (s : State) (i : Fin 16) : (s.free i).settings = s.settings := rfl
@[simp] theorem State.free_cable (s : State) (i : Fin 16) : (s.free i).cable = s.cable := rfl
@[simp] theorem State.free_driveA (s : State) (i : Fin 16) : (s.free i).driveA = s.driveA := rfl
@[simp] theorem State.free_driveB (s : State) (i : Fin 16) : (s.free i).driveB = s.driveB := rfl
@[simp] theorem State.free_rotation (s : State) (i : Fin 16) : (s.free i).rotation = s.rotation := rfl
@[simp] theorem State.free_capture (s : State) (i : Fin 16) : (s.free i).capture = s.capture := rfl
@[simp] theorem State.free_commit (s : State) (i : Fin 16) : (s.free i).commit = s.commit := rfl
@[simp] theorem State.free_card (s : State) (i : Fin 16) : (s.free i).card = s.card := rfl
@[simp] theorem State.free_volume (s : State) (i : Fin 16) : (s.free i).volume = s.volume := rfl
@[simp] theorem State.free_power (s : State) (i : Fin 16) : (s.free i).power = s.power := rfl
@[simp] theorem State.free_panel (s : State) (i : Fin 16) : (s.free i).panel = s.panel := rfl
@[simp] theorem State.free_alerts (s : State) (i : Fin 16) : (s.free i).alerts = s.alerts := rfl
@[simp] theorem State.free_freeCount (s : State) (i : Fin 16) : (s.free i).freeCount = s.freeCount := rfl
@[simp] theorem State.free_pending (s : State) (i : Fin 16) : (s.free i).pending = s.pending := rfl

/-! joinQueue -/

@[simp] theorem State.joinQueue_powered (s : State) (i : Fin 16) : (s.joinQueue i).powered = s.powered := rfl
@[simp] theorem State.joinQueue_lines (s : State) (i : Fin 16) : (s.joinQueue i).lines = s.lines := rfl
@[simp] theorem State.joinQueue_settings (s : State) (i : Fin 16) : (s.joinQueue i).settings = s.settings := rfl
@[simp] theorem State.joinQueue_cable (s : State) (i : Fin 16) : (s.joinQueue i).cable = s.cable := rfl
@[simp] theorem State.joinQueue_driveA (s : State) (i : Fin 16) : (s.joinQueue i).driveA = s.driveA := rfl
@[simp] theorem State.joinQueue_driveB (s : State) (i : Fin 16) : (s.joinQueue i).driveB = s.driveB := rfl
@[simp] theorem State.joinQueue_rotation (s : State) (i : Fin 16) : (s.joinQueue i).rotation = s.rotation := rfl
@[simp] theorem State.joinQueue_capture (s : State) (i : Fin 16) : (s.joinQueue i).capture = s.capture := rfl
@[simp] theorem State.joinQueue_cache (s : State) (i : Fin 16) : (s.joinQueue i).cache = s.cache := rfl
@[simp] theorem State.joinQueue_card (s : State) (i : Fin 16) : (s.joinQueue i).card = s.card := rfl
@[simp] theorem State.joinQueue_volume (s : State) (i : Fin 16) : (s.joinQueue i).volume = s.volume := rfl
@[simp] theorem State.joinQueue_power (s : State) (i : Fin 16) : (s.joinQueue i).power = s.power := rfl
@[simp] theorem State.joinQueue_panel (s : State) (i : Fin 16) : (s.joinQueue i).panel = s.panel := rfl
@[simp] theorem State.joinQueue_alerts (s : State) (i : Fin 16) : (s.joinQueue i).alerts = s.alerts := rfl
@[simp] theorem State.joinQueue_freeCount (s : State) (i : Fin 16) : (s.joinQueue i).freeCount = s.freeCount := rfl
@[simp] theorem State.joinQueue_pending (s : State) (i : Fin 16) : (s.joinQueue i).pending = s.pending := rfl

/-! departQueue -/

@[simp] theorem State.departQueue_powered (s : State) (q : List (Fin 16)) : (s.departQueue q).powered = s.powered := rfl
@[simp] theorem State.departQueue_lines (s : State) (q : List (Fin 16)) : (s.departQueue q).lines = s.lines := rfl
@[simp] theorem State.departQueue_settings (s : State) (q : List (Fin 16)) : (s.departQueue q).settings = s.settings := rfl
@[simp] theorem State.departQueue_cable (s : State) (q : List (Fin 16)) : (s.departQueue q).cable = s.cable := rfl
@[simp] theorem State.departQueue_driveA (s : State) (q : List (Fin 16)) : (s.departQueue q).driveA = s.driveA := rfl
@[simp] theorem State.departQueue_driveB (s : State) (q : List (Fin 16)) : (s.departQueue q).driveB = s.driveB := rfl
@[simp] theorem State.departQueue_rotation (s : State) (q : List (Fin 16)) : (s.departQueue q).rotation = s.rotation := rfl
@[simp] theorem State.departQueue_capture (s : State) (q : List (Fin 16)) : (s.departQueue q).capture = s.capture := rfl
@[simp] theorem State.departQueue_cache (s : State) (q : List (Fin 16)) : (s.departQueue q).cache = s.cache := rfl
@[simp] theorem State.departQueue_card (s : State) (q : List (Fin 16)) : (s.departQueue q).card = s.card := rfl
@[simp] theorem State.departQueue_volume (s : State) (q : List (Fin 16)) : (s.departQueue q).volume = s.volume := rfl
@[simp] theorem State.departQueue_power (s : State) (q : List (Fin 16)) : (s.departQueue q).power = s.power := rfl
@[simp] theorem State.departQueue_panel (s : State) (q : List (Fin 16)) : (s.departQueue q).panel = s.panel := rfl
@[simp] theorem State.departQueue_alerts (s : State) (q : List (Fin 16)) : (s.departQueue q).alerts = s.alerts := rfl
@[simp] theorem State.departQueue_freeCount (s : State) (q : List (Fin 16)) : (s.departQueue q).freeCount = s.freeCount := rfl
@[simp] theorem State.departQueue_pending (s : State) (q : List (Fin 16)) : (s.departQueue q).pending = s.pending := rfl

/-! withdraw -/

@[simp] theorem State.withdraw_powered (s : State) (i : Fin 16) : (s.withdraw i).powered = s.powered := by unfold State.withdraw; split <;> rfl
@[simp] theorem State.withdraw_lines (s : State) (i : Fin 16) : (s.withdraw i).lines = s.lines := by unfold State.withdraw; split <;> rfl
@[simp] theorem State.withdraw_settings (s : State) (i : Fin 16) : (s.withdraw i).settings = s.settings := by unfold State.withdraw; split <;> rfl
@[simp] theorem State.withdraw_cable (s : State) (i : Fin 16) : (s.withdraw i).cable = s.cable := by unfold State.withdraw; split <;> rfl
@[simp] theorem State.withdraw_driveA (s : State) (i : Fin 16) : (s.withdraw i).driveA = s.driveA := by unfold State.withdraw; split <;> rfl
@[simp] theorem State.withdraw_driveB (s : State) (i : Fin 16) : (s.withdraw i).driveB = s.driveB := by unfold State.withdraw; split <;> rfl
@[simp] theorem State.withdraw_rotation (s : State) (i : Fin 16) : (s.withdraw i).rotation = s.rotation := by unfold State.withdraw; split <;> rfl
@[simp] theorem State.withdraw_capture (s : State) (i : Fin 16) : (s.withdraw i).capture = s.capture := by unfold State.withdraw; split <;> rfl
@[simp] theorem State.withdraw_cache (s : State) (i : Fin 16) : (s.withdraw i).cache = s.cache := by unfold State.withdraw; split <;> rfl
@[simp] theorem State.withdraw_card (s : State) (i : Fin 16) : (s.withdraw i).card = s.card := by unfold State.withdraw; split <;> rfl
@[simp] theorem State.withdraw_volume (s : State) (i : Fin 16) : (s.withdraw i).volume = s.volume := by unfold State.withdraw; split <;> rfl
@[simp] theorem State.withdraw_power (s : State) (i : Fin 16) : (s.withdraw i).power = s.power := by unfold State.withdraw; split <;> rfl
@[simp] theorem State.withdraw_panel (s : State) (i : Fin 16) : (s.withdraw i).panel = s.panel := by unfold State.withdraw; split <;> rfl
@[simp] theorem State.withdraw_alerts (s : State) (i : Fin 16) : (s.withdraw i).alerts = s.alerts := by unfold State.withdraw; split <;> rfl
@[simp] theorem State.withdraw_freeCount (s : State) (i : Fin 16) : (s.withdraw i).freeCount = s.freeCount := by unfold State.withdraw; split <;> rfl
@[simp] theorem State.withdraw_pending (s : State) (i : Fin 16) : (s.withdraw i).pending = s.pending := by unfold State.withdraw; split <;> rfl

/-! dropEntriesOf -/

@[simp] theorem State.dropEntriesOf_powered (s : State) (d : Drive) : (s.dropEntriesOf d).powered = s.powered := rfl
@[simp] theorem State.dropEntriesOf_lines (s : State) (d : Drive) : (s.dropEntriesOf d).lines = s.lines := rfl
@[simp] theorem State.dropEntriesOf_settings (s : State) (d : Drive) : (s.dropEntriesOf d).settings = s.settings := rfl
@[simp] theorem State.dropEntriesOf_cable (s : State) (d : Drive) : (s.dropEntriesOf d).cable = s.cable := rfl
@[simp] theorem State.dropEntriesOf_driveA (s : State) (d : Drive) : (s.dropEntriesOf d).driveA = s.driveA := rfl
@[simp] theorem State.dropEntriesOf_driveB (s : State) (d : Drive) : (s.dropEntriesOf d).driveB = s.driveB := rfl
@[simp] theorem State.dropEntriesOf_rotation (s : State) (d : Drive) : (s.dropEntriesOf d).rotation = s.rotation := rfl
@[simp] theorem State.dropEntriesOf_capture (s : State) (d : Drive) : (s.dropEntriesOf d).capture = s.capture := rfl
@[simp] theorem State.dropEntriesOf_commit (s : State) (d : Drive) : (s.dropEntriesOf d).commit = s.commit := rfl
@[simp] theorem State.dropEntriesOf_card (s : State) (d : Drive) : (s.dropEntriesOf d).card = s.card := rfl
@[simp] theorem State.dropEntriesOf_volume (s : State) (d : Drive) : (s.dropEntriesOf d).volume = s.volume := rfl
@[simp] theorem State.dropEntriesOf_power (s : State) (d : Drive) : (s.dropEntriesOf d).power = s.power := rfl
@[simp] theorem State.dropEntriesOf_panel (s : State) (d : Drive) : (s.dropEntriesOf d).panel = s.panel := rfl
@[simp] theorem State.dropEntriesOf_alerts (s : State) (d : Drive) : (s.dropEntriesOf d).alerts = s.alerts := rfl
@[simp] theorem State.dropEntriesOf_freeCount (s : State) (d : Drive) : (s.dropEntriesOf d).freeCount = s.freeCount := rfl
@[simp] theorem State.dropEntriesOf_pending (s : State) (d : Drive) : (s.dropEntriesOf d).pending = s.pending := rfl

/-! requestLoad -/

@[simp] theorem State.requestLoad_powered (s : State) (k : Key) (d : Drive) : (s.requestLoad k d).powered = s.powered := by unfold State.requestLoad; repeat' (first | rfl | split)
@[simp] theorem State.requestLoad_lines (s : State) (k : Key) (d : Drive) : (s.requestLoad k d).lines = s.lines := by unfold State.requestLoad; repeat' (first | rfl | split)
@[simp] theorem State.requestLoad_settings (s : State) (k : Key) (d : Drive) : (s.requestLoad k d).settings = s.settings := by unfold State.requestLoad; repeat' (first | rfl | split)
@[simp] theorem State.requestLoad_cable (s : State) (k : Key) (d : Drive) : (s.requestLoad k d).cable = s.cable := by unfold State.requestLoad; repeat' (first | rfl | split)
@[simp] theorem State.requestLoad_driveA (s : State) (k : Key) (d : Drive) : (s.requestLoad k d).driveA = s.driveA := by unfold State.requestLoad; repeat' (first | rfl | split)
@[simp] theorem State.requestLoad_driveB (s : State) (k : Key) (d : Drive) : (s.requestLoad k d).driveB = s.driveB := by unfold State.requestLoad; repeat' (first | rfl | split)
@[simp] theorem State.requestLoad_rotation (s : State) (k : Key) (d : Drive) : (s.requestLoad k d).rotation = s.rotation := by unfold State.requestLoad; repeat' (first | rfl | split)
@[simp] theorem State.requestLoad_capture (s : State) (k : Key) (d : Drive) : (s.requestLoad k d).capture = s.capture := by unfold State.requestLoad; repeat' (first | rfl | split)
@[simp] theorem State.requestLoad_commit (s : State) (k : Key) (d : Drive) : (s.requestLoad k d).commit = s.commit := by unfold State.requestLoad; repeat' (first | rfl | split)
@[simp] theorem State.requestLoad_card (s : State) (k : Key) (d : Drive) : (s.requestLoad k d).card = s.card := by unfold State.requestLoad; repeat' (first | rfl | split)
@[simp] theorem State.requestLoad_volume (s : State) (k : Key) (d : Drive) : (s.requestLoad k d).volume = s.volume := by unfold State.requestLoad; repeat' (first | rfl | split)
@[simp] theorem State.requestLoad_power (s : State) (k : Key) (d : Drive) : (s.requestLoad k d).power = s.power := by unfold State.requestLoad; repeat' (first | rfl | split)
@[simp] theorem State.requestLoad_panel (s : State) (k : Key) (d : Drive) : (s.requestLoad k d).panel = s.panel := by unfold State.requestLoad; repeat' (first | rfl | split)
@[simp] theorem State.requestLoad_alerts (s : State) (k : Key) (d : Drive) : (s.requestLoad k d).alerts = s.alerts := by unfold State.requestLoad; repeat' (first | rfl | split)
@[simp] theorem State.requestLoad_freeCount (s : State) (k : Key) (d : Drive) : (s.requestLoad k d).freeCount = s.freeCount := by unfold State.requestLoad; repeat' (first | rfl | split)
@[simp] theorem State.requestLoad_pending (s : State) (k : Key) (d : Drive) : (s.requestLoad k d).pending = s.pending := by unfold State.requestLoad; repeat' (first | rfl | split)

/-! requestWrite -/

@[simp] theorem State.requestWrite_powered (s : State) (t : WriteTarget) : (s.requestWrite t).powered = s.powered := by unfold State.requestWrite; split <;> rfl
@[simp] theorem State.requestWrite_lines (s : State) (t : WriteTarget) : (s.requestWrite t).lines = s.lines := by unfold State.requestWrite; split <;> rfl
@[simp] theorem State.requestWrite_settings (s : State) (t : WriteTarget) : (s.requestWrite t).settings = s.settings := by unfold State.requestWrite; split <;> rfl
@[simp] theorem State.requestWrite_cable (s : State) (t : WriteTarget) : (s.requestWrite t).cable = s.cable := by unfold State.requestWrite; split <;> rfl
@[simp] theorem State.requestWrite_driveA (s : State) (t : WriteTarget) : (s.requestWrite t).driveA = s.driveA := by unfold State.requestWrite; split <;> rfl
@[simp] theorem State.requestWrite_driveB (s : State) (t : WriteTarget) : (s.requestWrite t).driveB = s.driveB := by unfold State.requestWrite; split <;> rfl
@[simp] theorem State.requestWrite_rotation (s : State) (t : WriteTarget) : (s.requestWrite t).rotation = s.rotation := by unfold State.requestWrite; split <;> rfl
@[simp] theorem State.requestWrite_capture (s : State) (t : WriteTarget) : (s.requestWrite t).capture = s.capture := by unfold State.requestWrite; split <;> rfl
@[simp] theorem State.requestWrite_cache (s : State) (t : WriteTarget) : (s.requestWrite t).cache = s.cache := by unfold State.requestWrite; split <;> rfl
@[simp] theorem State.requestWrite_commit (s : State) (t : WriteTarget) : (s.requestWrite t).commit = s.commit := by unfold State.requestWrite; split <;> rfl
@[simp] theorem State.requestWrite_card (s : State) (t : WriteTarget) : (s.requestWrite t).card = s.card := by unfold State.requestWrite; split <;> rfl
@[simp] theorem State.requestWrite_power (s : State) (t : WriteTarget) : (s.requestWrite t).power = s.power := by unfold State.requestWrite; split <;> rfl
@[simp] theorem State.requestWrite_panel (s : State) (t : WriteTarget) : (s.requestWrite t).panel = s.panel := by unfold State.requestWrite; split <;> rfl
@[simp] theorem State.requestWrite_alerts (s : State) (t : WriteTarget) : (s.requestWrite t).alerts = s.alerts := by unfold State.requestWrite; split <;> rfl
@[simp] theorem State.requestWrite_freeCount (s : State) (t : WriteTarget) : (s.requestWrite t).freeCount = s.freeCount := by unfold State.requestWrite; split <;> rfl
@[simp] theorem State.requestWrite_pending (s : State) (t : WriteTarget) : (s.requestWrite t).pending = s.pending := by unfold State.requestWrite; split <;> rfl

/-! giveBack -/

@[simp] theorem State.giveBack_powered (s : State) : (s.giveBack).powered = s.powered := rfl
@[simp] theorem State.giveBack_lines (s : State) : (s.giveBack).lines = s.lines := rfl
@[simp] theorem State.giveBack_settings (s : State) : (s.giveBack).settings = s.settings := rfl
@[simp] theorem State.giveBack_cable (s : State) : (s.giveBack).cable = s.cable := rfl
@[simp] theorem State.giveBack_driveA (s : State) : (s.giveBack).driveA = s.driveA := rfl
@[simp] theorem State.giveBack_driveB (s : State) : (s.giveBack).driveB = s.driveB := rfl
@[simp] theorem State.giveBack_rotation (s : State) : (s.giveBack).rotation = s.rotation := rfl
@[simp] theorem State.giveBack_capture (s : State) : (s.giveBack).capture = s.capture := rfl
@[simp] theorem State.giveBack_cache (s : State) : (s.giveBack).cache = s.cache := rfl
@[simp] theorem State.giveBack_commit (s : State) : (s.giveBack).commit = s.commit := rfl
@[simp] theorem State.giveBack_volume (s : State) : (s.giveBack).volume = s.volume := rfl
@[simp] theorem State.giveBack_power (s : State) : (s.giveBack).power = s.power := rfl
@[simp] theorem State.giveBack_panel (s : State) : (s.giveBack).panel = s.panel := rfl
@[simp] theorem State.giveBack_alerts (s : State) : (s.giveBack).alerts = s.alerts := rfl
@[simp] theorem State.giveBack_freeCount (s : State) : (s.giveBack).freeCount = s.freeCount := rfl
@[simp] theorem State.giveBack_pending (s : State) : (s.giveBack).pending = s.pending := rfl

/-! wakeCard -/

@[simp] theorem State.wakeCard_powered (s : State) : (s.wakeCard).powered = s.powered := by unfold State.wakeCard; split <;> rfl
@[simp] theorem State.wakeCard_lines (s : State) : (s.wakeCard).lines = s.lines := by unfold State.wakeCard; split <;> rfl
@[simp] theorem State.wakeCard_settings (s : State) : (s.wakeCard).settings = s.settings := by unfold State.wakeCard; split <;> rfl
@[simp] theorem State.wakeCard_cable (s : State) : (s.wakeCard).cable = s.cable := by unfold State.wakeCard; split <;> rfl
@[simp] theorem State.wakeCard_driveA (s : State) : (s.wakeCard).driveA = s.driveA := by unfold State.wakeCard; split <;> rfl
@[simp] theorem State.wakeCard_driveB (s : State) : (s.wakeCard).driveB = s.driveB := by unfold State.wakeCard; split <;> rfl
@[simp] theorem State.wakeCard_rotation (s : State) : (s.wakeCard).rotation = s.rotation := by unfold State.wakeCard; split <;> rfl
@[simp] theorem State.wakeCard_capture (s : State) : (s.wakeCard).capture = s.capture := by unfold State.wakeCard; split <;> rfl
@[simp] theorem State.wakeCard_cache (s : State) : (s.wakeCard).cache = s.cache := by unfold State.wakeCard; split <;> rfl
@[simp] theorem State.wakeCard_commit (s : State) : (s.wakeCard).commit = s.commit := by unfold State.wakeCard; split <;> rfl
@[simp] theorem State.wakeCard_volume (s : State) : (s.wakeCard).volume = s.volume := by unfold State.wakeCard; split <;> rfl
@[simp] theorem State.wakeCard_power (s : State) : (s.wakeCard).power = s.power := by unfold State.wakeCard; split <;> rfl
@[simp] theorem State.wakeCard_panel (s : State) : (s.wakeCard).panel = s.panel := by unfold State.wakeCard; split <;> rfl
@[simp] theorem State.wakeCard_alerts (s : State) : (s.wakeCard).alerts = s.alerts := by unfold State.wakeCard; split <;> rfl
@[simp] theorem State.wakeCard_freeCount (s : State) : (s.wakeCard).freeCount = s.freeCount := by unfold State.wakeCard; split <;> rfl
@[simp] theorem State.wakeCard_pending (s : State) : (s.wakeCard).pending = s.pending := by unfold State.wakeCard; split <;> rfl

/-! returnToRun -/

@[simp] theorem State.returnToRun_powered (s : State) : (s.returnToRun).powered = s.powered := by unfold State.returnToRun; split <;> rfl
@[simp] theorem State.returnToRun_lines (s : State) : (s.returnToRun).lines = s.lines := by unfold State.returnToRun; split <;> rfl
@[simp] theorem State.returnToRun_settings (s : State) : (s.returnToRun).settings = s.settings := by unfold State.returnToRun; split <;> rfl
@[simp] theorem State.returnToRun_cable (s : State) : (s.returnToRun).cable = s.cable := by unfold State.returnToRun; split <;> rfl
@[simp] theorem State.returnToRun_driveA (s : State) : (s.returnToRun).driveA = s.driveA := by unfold State.returnToRun; split <;> rfl
@[simp] theorem State.returnToRun_driveB (s : State) : (s.returnToRun).driveB = s.driveB := by unfold State.returnToRun; split <;> rfl
@[simp] theorem State.returnToRun_rotation (s : State) : (s.returnToRun).rotation = s.rotation := by unfold State.returnToRun; split <;> rfl
@[simp] theorem State.returnToRun_capture (s : State) : (s.returnToRun).capture = s.capture := by unfold State.returnToRun; split <;> rfl
@[simp] theorem State.returnToRun_cache (s : State) : (s.returnToRun).cache = s.cache := by unfold State.returnToRun; split <;> rfl
@[simp] theorem State.returnToRun_commit (s : State) : (s.returnToRun).commit = s.commit := by unfold State.returnToRun; split <;> rfl
@[simp] theorem State.returnToRun_card (s : State) : (s.returnToRun).card = s.card := by unfold State.returnToRun; split <;> rfl
@[simp] theorem State.returnToRun_volume (s : State) : (s.returnToRun).volume = s.volume := by unfold State.returnToRun; split <;> rfl
@[simp] theorem State.returnToRun_panel (s : State) : (s.returnToRun).panel = s.panel := by unfold State.returnToRun; split <;> rfl
@[simp] theorem State.returnToRun_alerts (s : State) : (s.returnToRun).alerts = s.alerts := by unfold State.returnToRun; split <;> rfl
@[simp] theorem State.returnToRun_freeCount (s : State) : (s.returnToRun).freeCount = s.freeCount := by unfold State.returnToRun; split <;> rfl
@[simp] theorem State.returnToRun_pending (s : State) : (s.returnToRun).pending = s.pending := by unfold State.returnToRun; split <;> rfl

/-! enterWriteFault -/

@[simp] theorem State.enterWriteFault_powered (s : State) : (s.enterWriteFault).powered = s.powered := rfl
@[simp] theorem State.enterWriteFault_lines (s : State) : (s.enterWriteFault).lines = s.lines := rfl
@[simp] theorem State.enterWriteFault_settings (s : State) : (s.enterWriteFault).settings = s.settings := rfl
@[simp] theorem State.enterWriteFault_cable (s : State) : (s.enterWriteFault).cable = s.cable := rfl
@[simp] theorem State.enterWriteFault_driveA (s : State) : (s.enterWriteFault).driveA = s.driveA := rfl
@[simp] theorem State.enterWriteFault_driveB (s : State) : (s.enterWriteFault).driveB = s.driveB := rfl
@[simp] theorem State.enterWriteFault_rotation (s : State) : (s.enterWriteFault).rotation = s.rotation := rfl
@[simp] theorem State.enterWriteFault_capture (s : State) : (s.enterWriteFault).capture = s.capture := rfl
@[simp] theorem State.enterWriteFault_cache (s : State) : (s.enterWriteFault).cache = s.cache := rfl
@[simp] theorem State.enterWriteFault_commit (s : State) : (s.enterWriteFault).commit = s.commit := rfl
@[simp] theorem State.enterWriteFault_volume (s : State) : (s.enterWriteFault).volume = s.volume := rfl
@[simp] theorem State.enterWriteFault_power (s : State) : (s.enterWriteFault).power = s.power := rfl
@[simp] theorem State.enterWriteFault_panel (s : State) : (s.enterWriteFault).panel = s.panel := rfl
@[simp] theorem State.enterWriteFault_freeCount (s : State) : (s.enterWriteFault).freeCount = s.freeCount := rfl
@[simp] theorem State.enterWriteFault_pending (s : State) : (s.enterWriteFault).pending = s.pending := rfl

/-! armHold -/

@[simp] theorem State.armHold_powered (s : State) : (s.armHold).powered = s.powered := rfl
@[simp] theorem State.armHold_lines (s : State) : (s.armHold).lines = s.lines := rfl
@[simp] theorem State.armHold_settings (s : State) : (s.armHold).settings = s.settings := rfl
@[simp] theorem State.armHold_cable (s : State) : (s.armHold).cable = s.cable := rfl
@[simp] theorem State.armHold_driveA (s : State) : (s.armHold).driveA = s.driveA := rfl
@[simp] theorem State.armHold_driveB (s : State) : (s.armHold).driveB = s.driveB := rfl
@[simp] theorem State.armHold_capture (s : State) : (s.armHold).capture = s.capture := rfl
@[simp] theorem State.armHold_cache (s : State) : (s.armHold).cache = s.cache := rfl
@[simp] theorem State.armHold_commit (s : State) : (s.armHold).commit = s.commit := rfl
@[simp] theorem State.armHold_card (s : State) : (s.armHold).card = s.card := rfl
@[simp] theorem State.armHold_volume (s : State) : (s.armHold).volume = s.volume := rfl
@[simp] theorem State.armHold_power (s : State) : (s.armHold).power = s.power := rfl
@[simp] theorem State.armHold_panel (s : State) : (s.armHold).panel = s.panel := rfl
@[simp] theorem State.armHold_alerts (s : State) : (s.armHold).alerts = s.alerts := rfl
@[simp] theorem State.armHold_freeCount (s : State) : (s.armHold).freeCount = s.freeCount := rfl
@[simp] theorem State.armHold_pending (s : State) : (s.armHold).pending = s.pending := rfl

/-! show -/

@[simp] theorem State.show_powered (s : State) (p : Page) : (s.show p).powered = s.powered := rfl
@[simp] theorem State.show_lines (s : State) (p : Page) : (s.show p).lines = s.lines := rfl
@[simp] theorem State.show_settings (s : State) (p : Page) : (s.show p).settings = s.settings := rfl
@[simp] theorem State.show_cable (s : State) (p : Page) : (s.show p).cable = s.cable := rfl
@[simp] theorem State.show_driveA (s : State) (p : Page) : (s.show p).driveA = s.driveA := rfl
@[simp] theorem State.show_driveB (s : State) (p : Page) : (s.show p).driveB = s.driveB := rfl
@[simp] theorem State.show_rotation (s : State) (p : Page) : (s.show p).rotation = s.rotation := rfl
@[simp] theorem State.show_capture (s : State) (p : Page) : (s.show p).capture = s.capture := rfl
@[simp] theorem State.show_cache (s : State) (p : Page) : (s.show p).cache = s.cache := rfl
@[simp] theorem State.show_commit (s : State) (p : Page) : (s.show p).commit = s.commit := rfl
@[simp] theorem State.show_card (s : State) (p : Page) : (s.show p).card = s.card := rfl
@[simp] theorem State.show_volume (s : State) (p : Page) : (s.show p).volume = s.volume := rfl
@[simp] theorem State.show_power (s : State) (p : Page) : (s.show p).power = s.power := rfl
@[simp] theorem State.show_alerts (s : State) (p : Page) : (s.show p).alerts = s.alerts := rfl
@[simp] theorem State.show_freeCount (s : State) (p : Page) : (s.show p).freeCount = s.freeCount := rfl
@[simp] theorem State.show_pending (s : State) (p : Page) : (s.show p).pending = s.pending := rfl

/-! nextRead -/

@[simp] theorem State.nextRead_powered (s : State) (r : InsertionRead) : (s.nextRead r).powered = s.powered := rfl
@[simp] theorem State.nextRead_lines (s : State) (r : InsertionRead) : (s.nextRead r).lines = s.lines := rfl
@[simp] theorem State.nextRead_settings (s : State) (r : InsertionRead) : (s.nextRead r).settings = s.settings := rfl
@[simp] theorem State.nextRead_cable (s : State) (r : InsertionRead) : (s.nextRead r).cable = s.cable := rfl
@[simp] theorem State.nextRead_driveA (s : State) (r : InsertionRead) : (s.nextRead r).driveA = s.driveA := rfl
@[simp] theorem State.nextRead_driveB (s : State) (r : InsertionRead) : (s.nextRead r).driveB = s.driveB := rfl
@[simp] theorem State.nextRead_rotation (s : State) (r : InsertionRead) : (s.nextRead r).rotation = s.rotation := rfl
@[simp] theorem State.nextRead_capture (s : State) (r : InsertionRead) : (s.nextRead r).capture = s.capture := rfl
@[simp] theorem State.nextRead_cache (s : State) (r : InsertionRead) : (s.nextRead r).cache = s.cache := rfl
@[simp] theorem State.nextRead_commit (s : State) (r : InsertionRead) : (s.nextRead r).commit = s.commit := rfl
@[simp] theorem State.nextRead_volume (s : State) (r : InsertionRead) : (s.nextRead r).volume = s.volume := rfl
@[simp] theorem State.nextRead_power (s : State) (r : InsertionRead) : (s.nextRead r).power = s.power := rfl
@[simp] theorem State.nextRead_panel (s : State) (r : InsertionRead) : (s.nextRead r).panel = s.panel := rfl
@[simp] theorem State.nextRead_alerts (s : State) (r : InsertionRead) : (s.nextRead r).alerts = s.alerts := rfl
@[simp] theorem State.nextRead_freeCount (s : State) (r : InsertionRead) : (s.nextRead r).freeCount = s.freeCount := rfl
@[simp] theorem State.nextRead_pending (s : State) (r : InsertionRead) : (s.nextRead r).pending = s.pending := rfl

/-! ### Reading back -/

@[simp] theorem State.drive_setDrive_self (s : State) (d : Drive) (u : DriveUnit) : (s.setDrive d u).drive d = u := by
  cases d <;> rfl

@[simp] theorem State.drive_setDrive_other (s : State) (d : Drive) (u : DriveUnit) :
    (s.setDrive d u).drive (otherDrive d) = s.drive (otherDrive d) := by
  cases d <;> rfl

@[simp] theorem State.buffer_setBuffer_self (s : State) (b : BufferId) (x : CaptureBuffer) :
    (s.setBuffer b x).buffer b = x := by
  cases b <;> rfl

@[simp] theorem State.buffer_setBuffer_other (s : State) (b : BufferId) (x : CaptureBuffer) :
    (s.setBuffer b x).buffer (otherBuffer b) = s.buffer (otherBuffer b) := by
  cases b <;> rfl

@[simp] theorem State.slot_setSlot_self (s : State) (i : Fin 16) (x : Slot) : (s.setSlot i x).slot i = x := by
  simp [State.slot, State.setSlot]

theorem State.slot_setSlot_other (s : State) {i j : Fin 16} (x : Slot) (h : j ≠ i) :
    (s.setSlot i x).slot j = s.slot j := by
  have : (i : Nat) ≠ j := fun e => h (Fin.ext e.symm)
  simp [State.slot, State.setSlot, this]

@[simp] theorem State.slot_toFront (s : State) (i j : Fin 16) : (s.toFront i).slot j = s.slot j := rfl

@[simp] theorem State.slot_free_self (s : State) (i : Fin 16) : (s.free i).slot i = Slot.free := by
  simp [State.slot, State.free]

theorem State.slot_free_other (s : State) {i j : Fin 16} (h : j ≠ i) : (s.free i).slot j = s.slot j := by
  have : (i : Nat) ≠ j := fun e => h (Fin.ext e.symm)
  simp [State.slot, State.free, this]

@[simp] theorem State.isLatched_latch_self (s : State) (a : Alert) : (s.latch a).isLatched a = true := by
  simp [State.isLatched, State.latch]

theorem Alert.index_injective : ∀ a b : Alert, a.index.val = b.index.val → a = b := by
  intro a b; cases a <;> cases b <;> decide

theorem State.isLatched_latch (s : State) (a b : Alert) :
    (s.latch a).isLatched b = (decide (a = b) || s.isLatched b) := by
  by_cases h : a = b
  · subst h; simp
  · have hv : a.index.val ≠ b.index.val := fun e => h (Alert.index_injective a b e)
    simp [State.isLatched, State.latch, h, hv]

theorem State.isLatched_latchIf (s : State) (c : Bool) (a b : Alert) :
    (s.latchIf c a).isLatched b = ((c && decide (a = b)) || s.isLatched b) := by
  cases c <;> simp [State.latchIf, State.isLatched_latch]

end Sys2Proof.Machine
end

