-- ==== Sys2Proof/Laws/Ops.lean ====
section
/-! SUPPORT. Everything each shared operation and each rule at the end of a command may change: one lemma each, which
gives the result as the state before with the changed fields named. Every other field is then unchanged by `rfl`. -/

namespace Sys2Proof.Machine

/-! ### Folds -/

/-- A property that every step of a fold keeps from the start. -/
theorem foldl_keeps {α : Type} (P : State → Prop) (f : State → α → State) (h : ∀ s x, P s → P (f s x)) (l : List α)
    (s : State) (hs : P s) : P (l.foldl f s) := by
  induction l generalizing s with
  | nil => exact hs
  | cons x xs ih => exact ih _ (h s x hs)

/-! ### The load list -/

/-- `t` is `s` with another load list. -/
def OnlyLoads (s t : State) : Prop := ∃ l, t = { s with cache.loads := l }

theorem OnlyLoads.refl (s : State) : OnlyLoads s s := ⟨s.cache.loads, rfl⟩

theorem OnlyLoads.trans {s t u : State} (h : OnlyLoads s t) (k : OnlyLoads t u) : OnlyLoads s u := by
  obtain ⟨l, rfl⟩ := h
  obtain ⟨m, rfl⟩ := k
  exact ⟨m, rfl⟩

theorem State.requestLoad_changes (s : State) (k : Key) (d : Drive) : OnlyLoads s (s.requestLoad k d) := by
  simp only [State.requestLoad]
  split
  · exact OnlyLoads.refl s
  · split
    · split
      · exact OnlyLoads.refl s
      · exact ⟨_, rfl⟩
    · exact ⟨_, rfl⟩

theorem State.requestLoads_changes (s : State) (d : Drive) (ks : List Key) : OnlyLoads s (s.requestLoads d ks) :=
  foldl_keeps (OnlyLoads s) _
    (fun t k h => by
      split
      · exact h
      · exact h.trans (t.requestLoad_changes k d)) ks s (OnlyLoads.refl s)

theorem State.requestCylinder_changes (s : State) (d : Drive) : OnlyLoads s (s.requestCylinder d) := by
  simp only [State.requestCylinder]
  split
  · exact s.requestLoads_changes d _
  · exact OnlyLoads.refl s

theorem State.requestSettled_changes (s : State) (d : Drive) : OnlyLoads s (s.requestSettled d) := by
  simp only [State.requestSettled]
  split
  · exact s.requestCylinder_changes d
  · exact OnlyLoads.refl s

theorem State.renewDemand_changes (s : State) (k : Key) : OnlyLoads s (s.renewDemand k) := by
  simp only [State.renewDemand]
  split
  · exact OnlyLoads.refl s
  · split
    · exact OnlyLoads.refl s
    · exact s.requestLoad_changes k _

theorem State.addPrefetch_changes (s : State) (d : Drive) (k : Key) : OnlyLoads s (s.addPrefetch d k) := by
  simp only [State.addPrefetch]
  split
  · exact ⟨_, rfl⟩
  · exact OnlyLoads.refl s

theorem State.considerPrefetch_changes (s : State) (k : Key) (d : Drive) : OnlyLoads s (s.considerPrefetch k d) := by
  simp only [State.considerPrefetch]
  split
  · split
    · exact OnlyLoads.refl s
    · split
      · exact OnlyLoads.refl s
      · exact foldl_keeps (OnlyLoads s) _ (fun t k h => h.trans (t.addPrefetch_changes d k)) _ s (OnlyLoads.refl s)
  · exact OnlyLoads.refl s

theorem State.prefetchAfter_changes (s : State) (x : Slot) : OnlyLoads s (s.prefetchAfter x) := by
  simp only [State.prefetchAfter]
  split
  · split
    · exact s.considerPrefetch_changes _ _
    · exact OnlyLoads.refl s
  · exact OnlyLoads.refl s

theorem State.requestFor_changes (s : State) (b : BufferId) : OnlyLoads s (s.requestFor b) := by
  simp only [State.requestFor]
  split
  · split
    · exact s.requestLoad_changes _ _
    · exact OnlyLoads.refl s
  · exact OnlyLoads.refl s

theorem State.followCaptures_changes (s : State) : OnlyLoads s s.followCaptures :=
  (s.requestFor_changes .one).trans (State.requestFor_changes _ .two)

theorem State.dropPrefetch_changes (s : State) : OnlyLoads s s.dropPrefetch := by
  simp only [State.dropPrefetch]
  split
  · exact OnlyLoads.refl s
  · exact ⟨_, rfl⟩

/-! ### Captures -/

/-- Captures ended: the buffers, the admission and the latches. -/
theorem State.discardCapturing_changes (s : State) :
    ∃ al, s.discardCapturing = { s with
      alerts := al
      capture.buf1 := s.capture.buf1.dropCapturing
      capture.buf2 := s.capture.buf2.dropCapturing
      cable.admitted := none } := by
  simp only [State.discardCapturing, State.latchIf]
  split
  · exact ⟨_, rfl⟩
  · exact ⟨s.alerts, rfl⟩

/-- Captures orphaned: the buffers and the latches. -/
theorem State.orphanCaptures_changes (s : State) (hit : Capture → Bool) :
    ∃ al, s.orphanCaptures hit = { s with
      alerts := al
      capture.buf1 := s.capture.buf1.orphan hit
      capture.buf2 := s.capture.buf2.orphan hit } := by
  simp only [State.orphanCaptures, State.latchIf]
  split
  · exact ⟨_, rfl⟩
  · exact ⟨s.alerts, rfl⟩

/-! ### The commit queue, the volume state write -/

theorem State.withdraw_changes (s : State) (i : Fin 16) : ∃ c, s.withdraw i = { s with commit := c } := by
  simp only [State.withdraw]
  split
  · exact ⟨_, rfl⟩
  · exact ⟨s.commit, rfl⟩

/-- `t` is `s` with another pending volume state write. -/
def OnlyWrite (s t : State) : Prop := ∃ w, t = { s with volume.pendingWrite := w }

theorem OnlyWrite.refl (s : State) : OnlyWrite s s := ⟨s.volume.pendingWrite, rfl⟩

theorem OnlyWrite.trans {s t u : State} (h : OnlyWrite s t) (k : OnlyWrite t u) : OnlyWrite s u := by
  obtain ⟨l, rfl⟩ := h
  obtain ⟨m, rfl⟩ := k
  exact ⟨m, rfl⟩

theorem State.requestWrite_changes (s : State) (t : WriteTarget) : OnlyWrite s (s.requestWrite t) := by
  simp only [State.requestWrite]
  split
  · exact OnlyWrite.refl s
  · exact ⟨_, rfl⟩

theorem State.dropBarredWrite_changes (s : State) : OnlyWrite s s.dropBarredWrite := by
  simp only [State.dropBarredWrite]
  split
  · exact ⟨_, rfl⟩
  · exact OnlyWrite.refl s

theorem State.requestMarker_changes (s : State) : OnlyWrite s s.requestMarker := by
  simp only [State.requestMarker]
  split
  · exact s.requestWrite_changes .open
  · exact OnlyWrite.refl s

/-! ### Mounts -/

/-- `t` is `s` with other slots, another recency order and another commit queue. -/
def OnlySlots (s t : State) : Prop :=
  ∃ slots recency commit, t = { s with cache.slots := slots, cache.recency := recency, commit := commit }

theorem OnlySlots.refl (s : State) : OnlySlots s s := ⟨s.cache.slots, s.cache.recency, s.commit, rfl⟩

theorem OnlySlots.trans {s t u : State} (h : OnlySlots s t) (k : OnlySlots t u) : OnlySlots s u := by
  obtain ⟨a, b, c, rfl⟩ := h
  obtain ⟨x, y, z, rfl⟩ := k
  exact ⟨x, y, z, rfl⟩

theorem State.setSlot_changes (s : State) (i : Fin 16) (x : Slot) : OnlySlots s (s.setSlot i x) := ⟨_, _, _, rfl⟩

theorem State.free_changes (s : State) (i : Fin 16) : OnlySlots s (s.free i) := ⟨_, _, _, rfl⟩

theorem State.unmountSlot_changes (s : State) (overlay : Bool) (i : Fin 16) : OnlySlots s (s.unmountSlot overlay i) := by
  have hw : OnlySlots s (s.withdraw i) := by
    obtain ⟨c, h⟩ := s.withdraw_changes i
    exact ⟨s.cache.slots, s.cache.recency, c, h⟩
  simp only [State.unmountSlot]
  split <;> split
  all_goals
    first
    | exact s.setSlot_changes i _
    | exact s.free_changes i
    | exact hw.trans (State.free_changes _ i)
    | exact OnlySlots.refl s

theorem State.unmountSlots_changes (s : State) (image : Nat) (overlay : Bool) :
    OnlySlots s (s.unmountSlots image overlay) :=
  foldl_keeps (OnlySlots s) _
    (fun t i h => by
      split
      · exact h.trans (t.unmountSlot_changes overlay i)
      · exact h) _ s (OnlySlots.refl s)

/-- `t` is `s` but for what a mount or an unmount may touch: the drives' records, the capture buffers, the cache, the
commit queue, the pending write, the latches. -/
def OnlyMounts (s t : State) : Prop :=
  ∃ a b buf1 buf2 cache commit w al,
    t = { s with
      driveA := a
      driveB := b
      capture.buf1 := buf1
      capture.buf2 := buf2
      cache := cache
      commit := commit
      volume.pendingWrite := w
      alerts := al }

theorem OnlyMounts.refl (s : State) : OnlyMounts s s :=
  ⟨s.driveA, s.driveB, s.capture.buf1, s.capture.buf2, s.cache, s.commit, s.volume.pendingWrite, s.alerts, rfl⟩

theorem OnlyMounts.trans {s t u : State} (h : OnlyMounts s t) (k : OnlyMounts t u) : OnlyMounts s u := by
  obtain ⟨a, b, c, d, e, f, g, i, rfl⟩ := h
  obtain ⟨a', b', c', d', e', f', g', i', rfl⟩ := k
  exact ⟨a', b', c', d', e', f', g', i', rfl⟩

theorem OnlyWrite.mounts {s t : State} (h : OnlyWrite s t) : OnlyMounts s t := by
  obtain ⟨w, rfl⟩ := h
  exact ⟨s.driveA, s.driveB, s.capture.buf1, s.capture.buf2, s.cache, s.commit, w, s.alerts, rfl⟩

theorem OnlySlots.mounts {s t : State} (h : OnlySlots s t) : OnlyMounts s t := by
  obtain ⟨x, y, z, rfl⟩ := h
  exact ⟨s.driveA, s.driveB, s.capture.buf1, s.capture.buf2, _, z, s.volume.pendingWrite, s.alerts, rfl⟩

theorem OnlyLoads.mounts {s t : State} (h : OnlyLoads s t) : OnlyMounts s t := by
  obtain ⟨l, rfl⟩ := h
  exact ⟨s.driveA, s.driveB, s.capture.buf1, s.capture.buf2, _, s.commit, s.volume.pendingWrite, s.alerts, rfl⟩

theorem State.setDrive_changes (s : State) (d : Drive) (u : DriveUnit) :
    ∃ a b, s.setDrive d u = { s with driveA := a, driveB := b } := by
  cases d
  · exact ⟨u, s.driveB, rfl⟩
  · exact ⟨s.driveA, u, rfl⟩

theorem State.setDrive_mounts (s : State) (d : Drive) (u : DriveUnit) : OnlyMounts s (s.setDrive d u) := by
  obtain ⟨a, b, h⟩ := s.setDrive_changes d u
  rw [h]
  exact ⟨a, b, s.capture.buf1, s.capture.buf2, s.cache, s.commit, s.volume.pendingWrite, s.alerts, rfl⟩

theorem State.orphanCaptures_mounts (s : State) (hit : Capture → Bool) : OnlyMounts s (s.orphanCaptures hit) := by
  obtain ⟨al, h⟩ := s.orphanCaptures_changes hit
  rw [h]
  exact ⟨s.driveA, s.driveB, _, _, s.cache, s.commit, s.volume.pendingWrite, al, rfl⟩

theorem State.latch_mounts (s : State) (a : Alert) : OnlyMounts s (s.latch a) :=
  ⟨s.driveA, s.driveB, s.capture.buf1, s.capture.buf2, s.cache, s.commit, s.volume.pendingWrite, _, rfl⟩

theorem State.unmountImage_changes (s : State) (d : Drive) (image : Nat) : OnlyMounts s (s.unmountImage d image) := by
  have h1 : OnlyLoads s { s with cache.loads := s.cache.loads.filter fun x => decide (x.key.image ≠ image) } := ⟨_, rfl⟩
  exact h1.mounts.trans ((State.orphanCaptures_mounts _ _).trans
    ((State.unmountSlots_changes _ image _).mounts.trans (State.setDrive_mounts _ d _)))

theorem State.unmountDrive_changes (s : State) (d : Drive) : OnlyMounts s (s.unmountDrive d) := by
  simp only [State.unmountDrive]
  split
  · exact OnlyMounts.refl s
  · exact s.unmountImage_changes d _

theorem State.doMount_changes (s : State) (d : Drive) (image : Nat) : OnlyMounts s (s.doMount d image) :=
  (s.unmountDrive_changes d).trans
    ((State.setDrive_mounts _ d _).trans (State.requestWrite_changes _ .recorded).mounts)

theorem State.doUnmount_changes (s : State) (d : Drive) : OnlyMounts s (s.doUnmount d) :=
  (s.unmountDrive_changes d).trans (State.requestWrite_changes _ .recorded).mounts

theorem State.decideMount_changes (s : State) (m : MountRequest) : OnlyMounts s (s.decideMount m) := by
  simp only [State.decideMount]
  split
  · exact s.latch_mounts .mountRefused
  · split
    · exact s.doMount_changes m.drive _
    · split
      · exact OnlyMounts.refl s
      · exact s.doUnmount_changes m.drive

/-- The waiting mount requests decided: they are gone, unless the card is still WAKING. -/
theorem State.decideDeferred_changes (s : State) :
    s.decideDeferred = s ∨ OnlyMounts { s with volume.deferred := [] } s.decideDeferred := by
  simp only [State.decideDeferred]
  split
  · exact .inl rfl
  · exact .inr (foldl_keeps (OnlyMounts _) _ (fun t m h => h.trans (t.decideMount_changes m)) _ _ (OnlyMounts.refl _))

/-! ### Power and the card -/

theorem State.wakeCard_changes (s : State) :
    s.wakeCard = s ∨ s.card.state = .asleep ∧ s.wakeCard = { s with card.state := .waking } := by
  simp only [State.wakeCard]
  split
  · rename_i h; exact .inr ⟨h, rfl⟩
  · exact .inl rfl

theorem State.returnToRun_changes (s : State) :
    s.returnToRun = s ∨ (s.power.state = .drain ∨ s.power.state = .quiet)
      ∧ s.returnToRun = { s with power.state := .run, power.idle := 0, power.job := .none } := by
  simp only [State.returnToRun]
  split
  · rename_i h; exact .inr ⟨h, rfl⟩
  · exact .inl rfl

/-- Cable activity touches the power state, the idle counter, the job and the card state. -/
theorem State.activity_changes (s : State) :
    ∃ st n j c, s.activity = { s with power.state := st, power.idle := n, power.job := j, card.state := c } := by
  simp only [State.activity, State.returnToRun, State.wakeCard]
  split
  · exact ⟨s.power.state, 0, s.power.job, s.card.state, rfl⟩
  · split
    · exact ⟨.run, 0, .none, s.card.state, rfl⟩
    · exact ⟨s.power.state, s.power.idle, s.power.job, s.card.state, rfl⟩
  · split <;> split
    · exact ⟨.run, 0, .none, .waking, rfl⟩
    · exact ⟨.run, 0, .none, s.card.state, rfl⟩
    · exact ⟨s.power.state, s.power.idle, s.power.job, .waking, rfl⟩
    · exact ⟨s.power.state, s.power.idle, s.power.job, s.card.state, rfl⟩
  · exact ⟨s.power.state, s.power.idle, s.power.job, s.card.state, rfl⟩

theorem State.followActivity_changes (s : State) :
    ∃ st n j c, s.followActivity = { s with power.state := st, power.idle := n, power.job := j, card.state := c } := by
  simp only [State.followActivity]
  split
  · exact s.activity_changes
  · exact ⟨s.power.state, s.power.idle, s.power.job, s.card.state, rfl⟩

/-- A write cut off touches the card's bytes and the count of free values. -/
theorem State.cutWrite_changes (s : State) :
    ∃ m n, s.cutWrite = { s with card.medium := m, freeCount := n } := by
  simp only [State.cutWrite]
  split
  · exact ⟨s.card.medium, s.freeCount, rfl⟩
  · exact ⟨_, _, rfl⟩

/-! ### Loads and flushes -/

theorem State.freeLoading_changes (s : State) (i : Fin 16) :
    OnlyLoads (s.free i).giveBack (s.freeLoading i) := by
  simp only [State.freeLoading]
  split
  · exact OnlyLoads.refl _
  · exact State.renewDemand_changes _ _

/-- A load's end touches the cache, the holder and the latches. -/
theorem State.endLoad_changes (s : State) (i : Fin 16) (r : LoadResult) :
    ∃ cache al, s.endLoad i r = { s with cache := cache, card.holder := .none, alerts := al } := by
  have hl : ∀ (r : LoadResult) (ab : Bool), ∃ al, s.latchLoad r ab = { s with alerts := al } := by
    intro r ab
    simp only [State.latchLoad, State.latchIf]
    split
    · exact ⟨s.alerts, rfl⟩
    · split
      · exact ⟨_, rfl⟩
      · exact ⟨s.alerts, rfl⟩
  obtain ⟨al, h⟩ := hl r ((s.slot i).context.any LoadContext.abandoned)
  simp only [State.endLoad, h]
  split
  · obtain ⟨l, hf⟩ := State.freeLoading_changes { s with alerts := al } i
    rw [hf]
    exact ⟨_, al, rfl⟩
  · obtain ⟨l, hf⟩ := State.prefetchAfter_changes
      (((({ s with alerts := al } : State).setSlot i ((s.slot i).loaded r)).toFront i).giveBack) (s.slot i)
    rw [hf]
    exact ⟨_, al, rfl⟩

/-- A flush's final failure touches the slots, the recency order, the holder, the buffer, the write fault and the
latches. -/
theorem State.failFlush_changes (s : State) (op : FlushOp) :
    ∃ slots recency, s.failFlush op = { s.latch .writeFail with
      cache.slots := slots
      cache.recency := recency
      card.holder := .none
      card.buffer := none
      card.writeFault := true } := by
  simp only [State.failFlush]
  split <;> exact ⟨_, _, rfl⟩

/-! ### The end of a command -/

theorem State.followFaultC_changes (s0 s : State) : ∃ al, State.followFaultC s0 s = { s with alerts := al } := by
  simp only [State.followFaultC, State.latchIf]
  split
  · exact ⟨_, rfl⟩
  · exact ⟨s.alerts, rfl⟩

theorem State.followFaultD_changes (s : State) :
    ∃ al adm buf1 buf2, s.followFaultD = { s with
      alerts := al, cable.admitted := adm, capture.buf1 := buf1, capture.buf2 := buf2 } := by
  simp only [State.followFaultD]
  split
  · obtain ⟨al, h⟩ := (s.latch .cableFault).discardCapturing_changes
    rw [h]
    exact ⟨al, none, _, _, rfl⟩
  · exact ⟨s.alerts, s.cable.admitted, s.capture.buf1, s.capture.buf2, rfl⟩

/-- The governing track re-derived touches the counter and the capture buffers. -/
theorem State.followGoverning_changes (s : State) :
    ∃ p c r buf1 buf2, s.followGoverning = { s with
      rotation.position := p, rotation.cells := c, rotation.rate := r, capture.buf1 := buf1, capture.buf2 := buf2 } := by
  simp only [State.followGoverning]
  split
  · exact ⟨s.rotation.position, s.rotation.cells, s.rotation.rate, s.capture.buf1, s.capture.buf2, rfl⟩
  · split
    · exact ⟨s.rotation.position, s.rotation.cells, _, s.capture.buf1, s.capture.buf2, rfl⟩
    · exact ⟨_, _, _, _, _, rfl⟩

theorem State.joinHeld_changes (s : State) (d : Drive) (k : Key) :
    ∃ ka kb, s.joinHeld d k = { s with driveA.heldKeys := ka, driveB.heldKeys := kb } := by
  cases d
  · exact ⟨_, s.driveB.heldKeys, rfl⟩
  · exact ⟨s.driveA.heldKeys, _, rfl⟩

/-- The hold followed touches the hold state and the held-key sets. -/
theorem State.followHold_changes (s : State) :
    ∃ h ka kb, s.followHold = { s with rotation.hold := h, driveA.heldKeys := ka, driveB.heldKeys := kb } := by
  have harm : ∃ h ka kb, s.armHold = { s with rotation.hold := h, driveA.heldKeys := ka, driveB.heldKeys := kb } :=
    ⟨_, s.driveA.heldKeys, s.driveB.heldKeys, rfl⟩
  simp only [State.followHold]
  split
  · rename_i k d limit _
    split
    · rename_i k' _
      obtain ⟨ka, kb, hj⟩ := s.joinHeld_changes d k'
      rw [hj]
      exact ⟨_, ka, kb, rfl⟩
    · exact harm
  · exact harm

theorem State.followServing_changes (s0 s : State) :
    ∃ l, State.followServing s0 s = { s with cache.recency := l } := by
  simp only [State.followServing]
  split
  · exact ⟨s.cache.recency, rfl⟩
  · split
    · exact ⟨s.cache.recency, rfl⟩
    · exact ⟨_, rfl⟩

/-- The pages followed touch the page, the keys and the blink. -/
theorem State.followPages_changes (s0 s : State) :
    ∃ p, State.followPages s0 s = { s with panel := p } ∧ p.page = s.alertPage ∧ p.drive = s.panel.drive
      ∧ p.lock = s.panel.lock := by
  simp only [State.followPages]
  split <;> split <;> exact ⟨_, rfl, rfl, rfl, rfl⟩

end Sys2Proof.Machine
end

