-- ==== Sys2Proof/Laws/Power.lean ====
section
/-! SUPPORT. The job and the power state: the end of a command keeps them in agreement and neither enters nor leaves
EMERGENCY and SPENT; and it clears no alert latch. -/

namespace Sys2Proof.Machine

/-! ### The job -/

/-- From a state whose job agrees with the power state, `t` has them agree too and fails exactly if `s` does. -/
def SamePower (s t : State) : Prop := s.jobFollows = true → t.jobFollows = true ∧ t.isFailing = s.isFailing

theorem SamePower.refl (s : State) : SamePower s s := fun h => ⟨h, rfl⟩

theorem SamePower.trans {s t u : State} (h : SamePower s t) (k : SamePower t u) : SamePower s u := fun hs =>
  ⟨(k (h hs).1).1, (k (h hs).1).2.trans (h hs).2⟩

theorem SamePower.of_eq {s t : State} (h1 : t.power.state = s.power.state) (h2 : t.power.job = s.power.job) :
    SamePower s t := fun hs => by
  simp only [State.jobFollows, State.isFailing, h1, h2] at *
  exact ⟨hs, trivial⟩

theorem SamePower.of_power {s t : State} (h : t.power = s.power) : SamePower s t :=
  SamePower.of_eq (by rw [h]) (by rw [h])

theorem OnlyLoads.power {s t : State} (h : OnlyLoads s t) : t.power = s.power := by
  obtain ⟨l, rfl⟩ := h; rfl

theorem OnlyWrite.power {s t : State} (h : OnlyWrite s t) : t.power = s.power := by
  obtain ⟨l, rfl⟩ := h; rfl

theorem OnlyMounts.power {s t : State} (h : OnlyMounts s t) : t.power = s.power := by
  obtain ⟨_, _, _, _, _, _, _, _, rfl⟩ := h; rfl

theorem State.decideDeferred_power (s : State) : s.decideDeferred.power = s.power := by
  rcases s.decideDeferred_changes with h | h
  · rw [h]
  · exact h.power

theorem State.returnToRun_samePower (s : State) : SamePower s s.returnToRun := by
  rcases s.returnToRun_changes with h | ⟨hc, h⟩
  · rw [h]; exact SamePower.refl s
  · rw [h]; intro _
    rcases hc with hc | hc <;> simp [State.jobFollows, State.isFailing, hc]

theorem State.activity_samePower (s : State) : SamePower s s.activity := by
  simp only [State.activity]
  split
  · exact SamePower.of_eq rfl rfl
  · exact s.returnToRun_samePower
  · exact s.returnToRun_samePower.trans (SamePower.of_power (State.wakeCard_power _))
  · exact SamePower.refl s

theorem State.followActivity_samePower (s : State) : SamePower s s.followActivity := by
  simp only [State.followActivity]; split
  · exact s.activity_samePower
  · exact SamePower.refl s

theorem State.removalEffects_power (s : State) : s.removalEffects.power = s.power := by
  obtain ⟨al, h⟩ := (s.latchIf s.anyUnwritten .dirtyLost).orphanCaptures_changes fun _ => true
  simp only [State.removalEffects, h, State.latchIf_power]

theorem State.afterClose_samePower (s : State) : SamePower s s.afterClose := by
  intro h
  simp only [State.afterClose]
  split <;> rename_i hj
  · revert h; simp only [State.jobFollows, State.isFailing, hj]; split <;> simp_all
  · revert h; simp only [State.jobFollows, State.isFailing, hj]; split <;> simp_all
  · have hc : s.cutWrite.power = s.power := by obtain ⟨m, n, hx⟩ := s.cutWrite_changes; rw [hx]
    revert h
    simp only [State.jobFollows, State.isFailing, hj, State.discard, State.removalEffects_power, hc]
    split <;> simp_all
  · exact ⟨h, rfl⟩

theorem State.closeVolume_samePower (s : State) : SamePower s s.closeVolume := by
  simp only [State.closeVolume]
  split
  · exact s.afterClose_samePower
  · have hw := (s.requestWrite_changes .clean).power
    intro h
    revert h; simp only [State.jobFollows, State.isFailing, hw]
    cases s.power.job <;> simp [Job.closing] <;> split <;> simp_all

theorem State.followDrainEnd_samePower (s : State) : SamePower s s.followDrainEnd := by
  simp only [State.followDrainEnd]; split
  · have h1 : SamePower s { s with power.flsh := false } := SamePower.of_eq rfl rfl
    split
    · exact h1.trans (State.closeVolume_samePower _)
    · exact h1
  · exact SamePower.refl s

theorem State.followClose_samePower (s : State) : SamePower s s.followClose := by
  simp only [State.followClose]; split
  · exact s.afterClose_samePower
  · exact SamePower.refl s

theorem State.followSleep_samePower (s : State) : SamePower s s.followSleep := by
  simp only [State.followSleep]; split
  · rename_i hc
    intro h
    revert h; simp only [State.jobFollows, State.isFailing, hc.1]; split <;> simp_all
  · exact SamePower.refl s

theorem State.followDrain_samePower (s : State) : SamePower s s.followDrain := by
  have h1 := SamePower.of_power s.dropBarredWrite_changes.power
  have h2 := SamePower.of_power (State.requestMarker_changes s.dropBarredWrite).power
  exact (((h1.trans h2).trans (State.followDrainEnd_samePower _)).trans (State.followClose_samePower _)).trans
    (State.followSleep_samePower _)

theorem State.followFaultC_power (s0 s : State) : (State.followFaultC s0 s).power = s.power := by
  obtain ⟨_, h⟩ := State.followFaultC_changes s0 s; rw [h]

theorem State.followFaultD_power (s : State) : s.followFaultD.power = s.power := by
  obtain ⟨_, _, _, _, h⟩ := s.followFaultD_changes; rw [h]

theorem State.followGoverning_power (s : State) : s.followGoverning.power = s.power := by
  obtain ⟨_, _, _, _, _, h⟩ := s.followGoverning_changes; rw [h]

theorem State.followHold_power (s : State) : s.followHold.power = s.power := by
  obtain ⟨_, _, _, h⟩ := s.followHold_changes; rw [h]

theorem State.followServing_power (s0 s : State) : (State.followServing s0 s).power = s.power := by
  obtain ⟨_, h⟩ := State.followServing_changes s0 s; rw [h]

theorem State.followPages_power (s0 s : State) : (State.followPages s0 s).power = s.power := by
  obtain ⟨_, h, _⟩ := State.followPages_changes s0 s; rw [h]

theorem State.followCable_samePower (s0 s : State) : SamePower s (State.followCable s0 s) := by
  refine s.followActivity_samePower.trans (SamePower.of_power ?_)
  simp only [State.followCable, State.followFaultD_power, State.followFaultC_power]
  rfl

theorem State.followCard_samePower (s : State) : SamePower s s.followCard := by
  have h4 := (State.followCaptures_changes s.decideDeferred.followDrain.decideDeferred).trans
    (State.dropPrefetch_changes _)
  exact (SamePower.of_power s.decideDeferred_power).trans ((State.followDrain_samePower _).trans
    ((SamePower.of_power (State.decideDeferred_power _)).trans (SamePower.of_power h4.power)))

theorem State.followTrack_power (s0 s : State) : (State.followTrack s0 s).power = s.power := by
  simp only [State.followTrack, State.followServing_power, State.followHold_power, State.followGoverning_power]

/-- The end of a command keeps the job in agreement with the power state, and neither enters nor leaves EMERGENCY and
SPENT together. -/
theorem react_samePower (s0 s : State) : SamePower s (react s0 s) := by
  refine (State.followCable_samePower s0 s).trans ((State.followCard_samePower _).trans (SamePower.of_power ?_))
  simp only [react, State.followPages_power, State.followTrack_power]

theorem react_jobFollows (s0 s : State) (h : s.jobFollows = true) : (react s0 s).jobFollows = true :=
  (react_samePower s0 s h).1

theorem react_isFailing (s0 s : State) (h : s.jobFollows = true) : (react s0 s).isFailing = s.isFailing :=
  (react_samePower s0 s h).2

/-! ### The latches -/

/-- Every latch set in `s` is set in `t`. -/
def KeepsLatches (s t : State) : Prop := ∀ a, s.isLatched a = true → t.isLatched a = true

theorem KeepsLatches.refl (s : State) : KeepsLatches s s := fun _ h => h

theorem KeepsLatches.trans {s t u : State} (h : KeepsLatches s t) (k : KeepsLatches t u) : KeepsLatches s u :=
  fun a x => k a (h a x)

theorem KeepsLatches.of_alerts {s t : State} (h : t.alerts = s.alerts) : KeepsLatches s t := fun a x => by
  simp only [State.isLatched, h] at *; exact x

theorem State.latch_keeps (s : State) (a : Alert) : KeepsLatches s (s.latch a) := fun b h => by
  rw [State.isLatched_latch, h, Bool.or_true]

theorem State.latchIf_keeps (s : State) (c : Bool) (a : Alert) : KeepsLatches s (s.latchIf c a) := by
  simp only [State.latchIf]; split
  · exact s.latch_keeps a
  · exact KeepsLatches.refl s

theorem State.discardCapturing_keeps (s : State) : KeepsLatches s s.discardCapturing :=
  fun _ h => s.latchIf_keeps (s.capture.buf1.isCapturing || s.capture.buf2.isCapturing) .writeLost _ h

theorem State.orphanCaptures_keeps (s : State) (hit : Capture → Bool) : KeepsLatches s (s.orphanCaptures hit) :=
  fun _ h => s.latchIf_keeps (s.capture.buf1.losesTo hit || s.capture.buf2.losesTo hit) .writeLost _ h

theorem OnlyLoads.keeps {s t : State} (h : OnlyLoads s t) : KeepsLatches s t := by
  obtain ⟨l, rfl⟩ := h; exact KeepsLatches.of_alerts rfl

theorem OnlyWrite.keeps {s t : State} (h : OnlyWrite s t) : KeepsLatches s t := by
  obtain ⟨l, rfl⟩ := h; exact KeepsLatches.of_alerts rfl

theorem OnlySlots.keeps {s t : State} (h : OnlySlots s t) : KeepsLatches s t := by
  obtain ⟨_, _, _, rfl⟩ := h; exact KeepsLatches.of_alerts rfl

theorem State.unmountImage_keeps (s : State) (d : Drive) (image : Nat) : KeepsLatches s (s.unmountImage d image) := by
  have h1 : KeepsLatches s { s with cache.loads := s.cache.loads.filter fun x => decide (x.key.image ≠ image) } :=
    KeepsLatches.of_alerts rfl
  exact h1.trans ((State.orphanCaptures_keeps _ _).trans ((State.unmountSlots_changes _ image _).keeps.trans
    (KeepsLatches.of_alerts (State.setDrive_alerts _ d _))))

theorem State.unmountDrive_keeps (s : State) (d : Drive) : KeepsLatches s (s.unmountDrive d) := by
  simp only [State.unmountDrive]; split
  · exact KeepsLatches.refl s
  · exact s.unmountImage_keeps d _

theorem State.decideMount_keeps (s : State) (m : MountRequest) : KeepsLatches s (s.decideMount m) := by
  simp only [State.decideMount]; split
  · exact s.latch_keeps .mountRefused
  · split
    · exact (s.unmountDrive_keeps m.drive).trans ((KeepsLatches.of_alerts (State.setDrive_alerts _ m.drive _)).trans
        (State.requestWrite_changes _ .recorded).keeps)
    · split
      · exact KeepsLatches.refl s
      · exact (s.unmountDrive_keeps m.drive).trans (State.requestWrite_changes _ .recorded).keeps

theorem State.decideDeferred_keeps (s : State) : KeepsLatches s s.decideDeferred := by
  simp only [State.decideDeferred]; split
  · exact KeepsLatches.refl s
  · exact foldl_keeps (KeepsLatches s) _ (fun t m h => h.trans (t.decideMount_keeps m)) _ _ (KeepsLatches.of_alerts rfl)

theorem State.removalEffects_keeps (s : State) : KeepsLatches s s.removalEffects :=
  fun _ h => State.orphanCaptures_keeps _ _ _ (s.latchIf_keeps s.anyUnwritten .dirtyLost _ h)

theorem State.afterClose_keeps (s : State) : KeepsLatches s s.afterClose := by
  simp only [State.afterClose]; split
  · exact KeepsLatches.of_alerts rfl
  · exact KeepsLatches.of_alerts rfl
  · obtain ⟨m, n, h⟩ := s.cutWrite_changes
    have h1 : KeepsLatches s s.cutWrite := KeepsLatches.of_alerts (by rw [h])
    exact fun a x => State.removalEffects_keeps _ a (h1 a x)
  · exact KeepsLatches.refl s

theorem State.closeVolume_keeps (s : State) : KeepsLatches s s.closeVolume := by
  simp only [State.closeVolume]; split
  · exact s.afterClose_keeps
  · exact fun a x => (s.requestWrite_changes .clean).keeps a x

theorem State.followDrain_keeps (s : State) : KeepsLatches s s.followDrain := by
  have h3 : ∀ s : State, KeepsLatches s s.followDrainEnd := fun s => by
    simp only [State.followDrainEnd]; split
    · have h1 : KeepsLatches s { s with power.flsh := false } := KeepsLatches.of_alerts rfl
      split
      · exact h1.trans (State.closeVolume_keeps _)
      · exact h1
    · exact KeepsLatches.refl s
  have h4 : ∀ s : State, KeepsLatches s s.followClose := fun s => by
    simp only [State.followClose]; split
    · exact s.afterClose_keeps
    · exact KeepsLatches.refl s
  have h5 : ∀ s : State, KeepsLatches s s.followSleep := fun s => by
    simp only [State.followSleep]; split <;> exact KeepsLatches.of_alerts rfl
  exact (((s.dropBarredWrite_changes.keeps.trans (State.requestMarker_changes _).keeps).trans (h3 _)).trans
    (h4 _)).trans (h5 _)

theorem State.followCable_keeps (s0 s : State) : KeepsLatches s (State.followCable s0 s) := by
  have h1 : KeepsLatches s s.followActivity.followSpindles := by
    obtain ⟨_, _, _, _, h⟩ := s.followActivity_changes
    exact KeepsLatches.of_alerts (by rw [h]; rfl)
  have h3 : ∀ s : State, KeepsLatches s s.followFaultD := fun s => by
    simp only [State.followFaultD]; split
    · exact (s.latch_keeps .cableFault).trans (State.discardCapturing_keeps _)
    · exact KeepsLatches.refl s
  exact h1.trans ((State.latchIf_keeps _ _ .cableFault).trans (h3 _))

theorem State.followTrack_alerts (s0 s : State) : (State.followTrack s0 s).alerts = s.alerts := by
  have h1 : s.followGoverning.alerts = s.alerts := by
    obtain ⟨_, _, _, _, _, h⟩ := s.followGoverning_changes; rw [h]
  have h2 : ∀ s : State, s.followHold.alerts = s.alerts := fun s => by
    obtain ⟨_, _, _, h⟩ := s.followHold_changes; rw [h]
  have h3 : ∀ s : State, (State.followServing s0 s).alerts = s.alerts := fun s => by
    obtain ⟨_, h⟩ := State.followServing_changes s0 s; rw [h]
  simp only [State.followTrack, h3, h2, h1]

theorem State.followPages_alerts (s0 s : State) : (State.followPages s0 s).alerts = s.alerts := by
  obtain ⟨_, h, _⟩ := State.followPages_changes s0 s; rw [h]

theorem State.followCard_keeps (s : State) : KeepsLatches s s.followCard := by
  have h4 := (State.followCaptures_changes s.decideDeferred.followDrain.decideDeferred).trans
    (State.dropPrefetch_changes _)
  exact (State.decideDeferred_keeps s).trans ((State.followDrain_keeps _).trans
    ((State.decideDeferred_keeps _).trans h4.keeps))

/-- The end of a command clears no latch. -/
theorem react_keeps (s0 s : State) : KeepsLatches s (react s0 s) := by
  refine (State.followCable_keeps s0 s).trans ((State.followCard_keeps _).trans (KeepsLatches.of_alerts ?_))
  simp only [react, State.followPages_alerts, State.followTrack_alerts]

end Sys2Proof.Machine
end

