-- ==== Sys2Proof/Laws/Cache.lean ====
section
/-! SUPPORT. The laws of the cache and the commit queue (R92, R93, R96, R119): what a change of one slot has to satisfy
to keep them, and that the end of a command keeps them. -/

namespace Sys2Proof.Machine

/-! ### One slot -/

/-- A slot of a state whose slots were set. -/
theorem State.slot_set {s t : State} {i : Fin 16} {x : Slot} (h : t.cache.slots = s.cache.slots.set i x) (j : Fin 16) :
    t.slot j = if j = i then x else s.slot j := by
  simp only [State.slot, h, Fin.getElem_fin, Vector.getElem_set]
  by_cases e : j = i
  · simp [e]
  · have : ¬ i.val = j.val := fun v => e (Fin.ext v.symm)
    simp [e, this]

theorem State.slot_congr {s t : State} (h : t.cache.slots = s.cache.slots) (j : Fin 16) : t.slot j = s.slot j := by
  simp only [State.slot, h]

/-- The laws read slots, recency order, commit queue and holder, and nothing else. -/
theorem State.cacheLawful_congr {s t : State} (hs : s.cacheLawful) (h1 : t.cache.slots = s.cache.slots)
    (h2 : t.cache.recency = s.cache.recency) (h3 : t.commit.queue = s.commit.queue)
    (h4 : ∀ op, t.card.holder = .loader op → ∃ op', s.card.holder = .loader op' ∧ op'.slot = op.slot)
    (h5 : ∀ op, t.card.holder = .flusher op → ∃ op', s.card.holder = .flusher op' ∧ op'.slot = op.slot) :
    t.cacheLawful := by
  obtain ⟨a, b, c, d, e, f, g, i⟩ := hs
  have hx := State.slot_congr h1
  refine ⟨fun j => ?_, fun j k => ?_, ?_, fun j => ?_, ?_, fun j => ?_, fun op ho => ?_, fun op ho => ?_⟩
  · rw [hx]; exact a j
  · rw [hx, hx]; exact b j k
  · rw [h2]; exact c
  · rw [h2, hx]; exact d j
  · rw [h3]; exact e
  · rw [h3, hx]; exact f j
  · obtain ⟨op', ho', he⟩ := h4 op ho
    rw [hx, ← he]; exact g op' ho'
  · obtain ⟨op', ho', he⟩ := h5 op ho
    rw [hx, ← he]; exact i op' ho'

/-- What a change of one slot has to satisfy, with the recency order, the queue and the holder that go with it. -/
theorem State.cacheLawful_set {s t : State} {i : Fin 16} {x : Slot} (hs : s.cacheLawful)
    (h1 : t.cache.slots = s.cache.slots.set i x) (hx : x.lawful = true)
    (hk : ∀ k, x.key = some k → ∀ j, j ≠ i → (s.slot j).key ≠ some k)
    (hr : t.cache.recency.Nodup)
    (hr' : ∀ j, j ∈ t.cache.recency ↔ if j = i then x.state ≠ .free else j ∈ s.cache.recency)
    (hq : t.commit.queue.Nodup)
    (hq' : ∀ j, j ∈ t.commit.queue ↔ if j = i then x.state = .dirty else j ∈ s.commit.queue)
    (hl : ∀ op, t.card.holder = .loader op →
      if op.slot = i then x.state = .loading else ∃ op', s.card.holder = .loader op' ∧ op'.slot = op.slot)
    (hf : ∀ op, t.card.holder = .flusher op →
      if op.slot = i then x.state = .writing ∨ x.state = .discarding
      else ∃ op', s.card.holder = .flusher op' ∧ op'.slot = op.slot) :
    t.cacheLawful := by
  obtain ⟨a, b, c, d, e, f, g, m⟩ := hs
  have hy := State.slot_set h1
  refine ⟨fun j => ?_, fun j k => ?_, hr, fun j => ?_, hq, fun j => ?_, fun op ho => ?_, fun op ho => ?_⟩
  · rw [hy]; split
    · exact hx
    · exact a j
  · rw [hy, hy]; split <;> split
    · intros; simp_all
    · rename_i hj hk'
      intro hn he
      obtain ⟨key, hkey⟩ := Option.ne_none_iff_exists'.mp hn
      exact absurd (he ▸ hkey) (hk key hkey k hk')
    · rename_i hj hk'
      intro hn he
      obtain ⟨key, hkey⟩ := Option.ne_none_iff_exists'.mp hn
      exact absurd hkey (hk key (he ▸ hkey) j hj)
    · exact b j k
  · rw [hr', hy]; split
    · rfl
    · exact d j
  · rw [hq', hy]; split
    · rfl
    · exact f j
  · have := hl op ho
    rw [hy]; split
    · rename_i hi; rw [if_pos hi] at this; exact this
    · rename_i hi; rw [if_neg hi] at this
      obtain ⟨op', ho', he⟩ := this
      rw [← he]; exact g op' ho'
  · have := hf op ho
    rw [hy]; split
    · rename_i hi; rw [if_pos hi] at this; exact this
    · rename_i hi; rw [if_neg hi] at this
      obtain ⟨op', ho', he⟩ := this
      rw [← he]; exact m op' ho'

/-- A lawful slot that holds a key stands in one slot only. -/
theorem State.key_unique {s : State} (hs : s.cacheLawful) {i j : Fin 16} {k : Key} (hi : (s.slot i).key = some k)
    (hj : (s.slot j).key = some k) : i = j :=
  hs.2.1 i j (by rw [hi]; exact Option.some_ne_none k) (by rw [hi, hj])

/-- No load is in flight in a slot that is not LOADING, and no flush in one that is neither WRITING nor DISCARDING. -/
theorem State.holder_elsewhere {s : State} (hs : s.cacheLawful) {i : Fin 16} (h1 : (s.slot i).state ≠ .loading)
    (h2 : (s.slot i).state ≠ .writing) (h3 : (s.slot i).state ≠ .discarding) :
    (∀ op, s.card.holder = .loader op → op.slot ≠ i) ∧ ∀ op, s.card.holder = .flusher op → op.slot ≠ i :=
  ⟨fun op ho e => h1 (e ▸ hs.2.2.2.2.2.2.1 op ho),
    fun op ho e => (hs.2.2.2.2.2.2.2 op ho).elim (fun x => h2 (e ▸ x)) (fun x => h3 (e ▸ x))⟩

/-! ### The operations -/

theorem OnlyLoads.cacheLawful {s t : State} (h : OnlyLoads s t) (hs : s.cacheLawful) : t.cacheLawful := by
  obtain ⟨l, rfl⟩ := h
  exact State.cacheLawful_congr hs rfl rfl rfl (fun op h => ⟨op, h, rfl⟩) (fun op h => ⟨op, h, rfl⟩)

theorem OnlyWrite.cacheLawful {s t : State} (h : OnlyWrite s t) (hs : s.cacheLawful) : t.cacheLawful := by
  obtain ⟨l, rfl⟩ := h
  exact State.cacheLawful_congr hs rfl rfl rfl (fun op h => ⟨op, h, rfl⟩) (fun op h => ⟨op, h, rfl⟩)

/-- A slot that is not FREE moved to the front of the recency order. -/
theorem State.toFront_cacheLawful {s : State} (hs : s.cacheLawful) (i : Fin 16) (h : (s.slot i).state ≠ .free) :
    (s.toFront i).cacheLawful := by
  obtain ⟨a, b, c, d, e, f, g, m⟩ := hs
  refine ⟨a, b, ?_, fun j => ?_, e, f, g, m⟩
  · simp only [State.toFront, List.nodup_cons, List.mem_filter]
    exact ⟨by simp, c.filter _⟩
  · simp only [State.toFront, List.mem_cons, List.mem_filter, decide_eq_true_eq]
    by_cases hj : j = i
    · subst hj; simp only [true_or, true_iff]; exact h
    · simp only [hj, false_or, ne_eq, not_false_eq_true, and_true]; exact d j

/-- A slot freed that is not DIRTY and in which nothing is in flight. -/
theorem State.free_cacheLawful {s : State} (hs : s.cacheLawful) (i : Fin 16) (hd : (s.slot i).state ≠ .dirty)
    (hl : ∀ op, s.card.holder = .loader op → op.slot ≠ i) (hf : ∀ op, s.card.holder = .flusher op → op.slot ≠ i) :
    (s.free i).cacheLawful := by
  refine State.cacheLawful_set (i := i) (x := Slot.free) hs rfl rfl (fun k h => by cases h) (hs.2.2.1.filter _) ?_
    hs.2.2.2.2.1 ?_ ?_ ?_
  · intro j
    simp only [State.free, List.mem_filter, decide_eq_true_eq]
    by_cases hj : j = i
    · simp [hj, Slot.free]
    · simp [hj]
  · intro j
    by_cases hj : j = i
    · subst hj
      simp only [if_true]
      exact ⟨fun h => absurd ((hs.2.2.2.2.2.1 j).mp h) hd, fun h => by cases h⟩
    · simp only [hj, if_false]; rfl
  · intro op ho
    rw [if_neg (hl op ho)]; exact ⟨op, ho, rfl⟩
  · intro op ho
    rw [if_neg (hf op ho)]; exact ⟨op, ho, rfl⟩

/-- A DIRTY slot withdrawn from the queue and freed. -/
theorem State.withdraw_free_cacheLawful {s : State} (hs : s.cacheLawful) (i : Fin 16) (hd : (s.slot i).state = .dirty) :
    ((s.withdraw i).free i).cacheLawful := by
  have hq : s.commit.queue.contains i = true := by
    simp only [List.contains_iff_mem]; exact (hs.2.2.2.2.2.1 i).mpr hd
  have he := State.holder_elsewhere hs (i := i) (by rw [hd]; decide) (by rw [hd]; decide) (by rw [hd]; decide)
  refine State.cacheLawful_set (i := i) (x := Slot.free) hs ?_ rfl (fun k h => by cases h) ?_ ?_ ?_ ?_ ?_ ?_
  · simp only [State.free, State.withdraw, hq, if_true]; rfl
  · simp only [State.free, State.withdraw, hq, if_true]; exact hs.2.2.1.filter _
  · intro j
    simp only [State.free, State.withdraw, hq, if_true, State.departQueue, List.mem_filter, decide_eq_true_eq]
    by_cases hj : j = i
    · simp [hj, Slot.free]
    · simp [hj]
  · simp only [State.free, State.withdraw, hq, if_true]; exact hs.2.2.2.2.1.filter _
  · intro j
    simp only [State.free, State.withdraw, hq, if_true, State.departQueue, List.mem_filter, decide_eq_true_eq]
    by_cases hj : j = i
    · simp [hj, Slot.free]
    · simp [hj]
  · intro op ho
    simp only [State.free, State.withdraw, hq, if_true, State.departQueue] at ho
    rw [if_neg (he.1 op ho)]; exact ⟨op, ho, rfl⟩
  · intro op ho
    simp only [State.free, State.withdraw, hq, if_true, State.departQueue] at ho
    rw [if_neg (he.2 op ho)]; exact ⟨op, ho, rfl⟩

/-- A slot replaced by a lawful one of the same standing: as free, as dirty, as loading, as being flushed as it was,
with its key or none. -/
theorem State.setSlot_cacheLawful {s : State} (hs : s.cacheLawful) (i : Fin 16) (x : Slot) (hx : x.lawful = true)
    (hk : x.key = (s.slot i).key ∨ x.key = none) (hfree : x.state = .free ↔ (s.slot i).state = .free)
    (hdirty : x.state = .dirty ↔ (s.slot i).state = .dirty)
    (hl : (s.slot i).state = .loading → x.state = .loading)
    (hf : (s.slot i).state = .writing ∨ (s.slot i).state = .discarding → x.state = .writing ∨ x.state = .discarding) :
    (s.setSlot i x).cacheLawful := by
  refine State.cacheLawful_set (i := i) (x := x) hs rfl hx ?_ hs.2.2.1 ?_ hs.2.2.2.2.1 ?_ ?_ ?_
  · intro k hkey j hj hother
    rcases hk with h | h
    · exact hj (State.key_unique hs hother (h ▸ hkey))
    · rw [h] at hkey; cases hkey
  · intro j
    show j ∈ s.cache.recency ↔ _
    by_cases hj : j = i
    · subst hj; simp only [if_true]; rw [hs.2.2.2.1 j, ne_eq, ne_eq, hfree]
    · simp only [hj, if_false]
  · intro j
    show j ∈ s.commit.queue ↔ _
    by_cases hj : j = i
    · subst hj; simp only [if_true]; rw [hs.2.2.2.2.2.1 j, hdirty]
    · simp only [hj, if_false]
  · intro op ho
    split
    · rename_i e; exact hl (e ▸ hs.2.2.2.2.2.2.1 op ho)
    · exact ⟨op, ho, rfl⟩
  · intro op ho
    split
    · rename_i e; exact hf (e ▸ hs.2.2.2.2.2.2.2 op ho)
    · exact ⟨op, ho, rfl⟩

/-! ### Unmounts -/

theorem State.unmountSlot_cacheLawful {s : State} (hs : s.cacheLawful) (overlay : Bool) (i : Fin 16) :
    (s.unmountSlot overlay i).cacheLawful := by
  have hx := hs.1 i
  have hfree : ∀ st, (s.slot i).state = st → st ≠ .dirty → st ≠ .loading → st ≠ .writing → st ≠ .discarding →
      (s.free i).cacheLawful := fun st h a b c d => by
    have he := State.holder_elsewhere hs (i := i) (h ▸ b) (h ▸ c) (h ▸ d)
    exact State.free_cacheLawful hs i (h ▸ a) he.1 he.2
  simp only [State.unmountSlot]
  split <;> split <;> rename_i h
  · refine State.setSlot_cacheLawful hs i _ ?_ (.inl rfl) Iff.rfl Iff.rfl (fun x => x) (fun x => x)
    revert hx
    simp only [Slot.lawful, h, Option.isSome_map]
    simp only [reduceCtorEq, decide_false, Bool.not_false, Bool.true_or, imp_self]
  · exact hfree _ h (by decide) (by decide) (by decide) (by decide)
  · exact hfree _ h (by decide) (by decide) (by decide) (by decide)
  · exact hfree _ h (by decide) (by decide) (by decide) (by decide)
  · exact State.withdraw_free_cacheLawful hs i h
  · refine State.setSlot_cacheLawful hs i _ ?_ (.inr rfl) (by simp [h]) (by simp [h]) (by simp [h]) (by simp)
    revert hx
    simp [Slot.lawful, h, SlotState.holdsKey, SlotState.holdsRecord]
  · exact hs
  · exact hfree _ h (by decide) (by decide) (by decide) (by decide)
  · exact hs

theorem State.unmountSlots_cacheLawful {s : State} (hs : s.cacheLawful) (image : Nat) (overlay : Bool) :
    (s.unmountSlots image overlay).cacheLawful :=
  foldl_keeps State.cacheLawful _
    (fun t i h => by
      split
      · exact State.unmountSlot_cacheLawful h overlay i
      · exact h) _ s hs

theorem State.unmountImage_cacheLawful {s : State} (hs : s.cacheLawful) (d : Drive) (image : Nat) :
    (s.unmountImage d image).cacheLawful := by
  have h1 : ({ s with cache.loads := s.cache.loads.filter fun x => decide (x.key.image ≠ image) } : State).cacheLawful :=
    OnlyLoads.cacheLawful ⟨_, rfl⟩ hs
  have h2 : ∀ (t : State) (hit : Capture → Bool), t.cacheLawful → (t.orphanCaptures hit).cacheLawful := fun t hit ht => by
    obtain ⟨al, h⟩ := t.orphanCaptures_changes hit
    rw [h]
    exact State.cacheLawful_congr ht rfl rfl rfl (fun op h => ⟨op, h, rfl⟩) (fun op h => ⟨op, h, rfl⟩)
  have h3 : ∀ (t : State) (d : Drive) (u : DriveUnit), t.cacheLawful → (t.setDrive d u).cacheLawful := fun t d u ht => by
    obtain ⟨a, b, h⟩ := t.setDrive_changes d u
    rw [h]
    exact State.cacheLawful_congr ht rfl rfl rfl (fun op h => ⟨op, h, rfl⟩) (fun op h => ⟨op, h, rfl⟩)
  exact h3 _ _ _ (State.unmountSlots_cacheLawful (h2 _ _ h1) image _)

theorem State.unmountDrive_cacheLawful {s : State} (hs : s.cacheLawful) (d : Drive) : (s.unmountDrive d).cacheLawful := by
  simp only [State.unmountDrive]; split
  · exact hs
  · exact State.unmountImage_cacheLawful hs d _

theorem State.decideMount_cacheLawful {s : State} (hs : s.cacheLawful) (m : MountRequest) :
    (s.decideMount m).cacheLawful := by
  simp only [State.decideMount]; split
  · exact State.cacheLawful_congr hs rfl rfl rfl (fun op h => ⟨op, h, rfl⟩) (fun op h => ⟨op, h, rfl⟩)
  · split
    · refine (State.requestWrite_changes _ .recorded).cacheLawful ?_
      have hu := State.unmountDrive_cacheLawful hs m.drive
      obtain ⟨a, b, h⟩ := (s.unmountDrive m.drive).setDrive_changes m.drive
        { (s.unmountDrive m.drive).drive m.drive with
          mounted := some ‹_›, media := .swap (s.unmountDrive m.drive).settings.swapMs, diskChange := true, overlay := [] }
      rw [h]
      exact State.cacheLawful_congr hu rfl rfl rfl (fun op h => ⟨op, h, rfl⟩) (fun op h => ⟨op, h, rfl⟩)
    · split
      · exact hs
      · exact (State.requestWrite_changes _ .recorded).cacheLawful (State.unmountDrive_cacheLawful hs m.drive)

theorem State.decideDeferred_cacheLawful {s : State} (hs : s.cacheLawful) : s.decideDeferred.cacheLawful := by
  simp only [State.decideDeferred]; split
  · exact hs
  · exact foldl_keeps State.cacheLawful _ (fun t m h => State.decideMount_cacheLawful h m) _ _
      (State.cacheLawful_congr hs rfl rfl rfl (fun op h => ⟨op, h, rfl⟩) (fun op h => ⟨op, h, rfl⟩))

/-! ### The end of a command -/

/-- With every slot FREE and nothing in flight the laws hold. -/
theorem State.cacheLawful_empty {s : State} (h1 : s.cache.slots = Vector.replicate 16 Slot.free)
    (h2 : s.cache.recency = []) (h3 : s.commit.queue = []) (h4 : s.card.holder = .none) : s.cacheLawful := by
  have hx : ∀ j, s.slot j = Slot.free := fun j => by simp [State.slot, h1]
  refine ⟨fun j => ?_, fun j k => ?_, ?_, fun j => ?_, ?_, fun j => ?_, fun op ho => ?_, fun op ho => ?_⟩
  · rw [hx]; rfl
  · rw [hx]; intro h; exact absurd rfl h
  · rw [h2]; exact List.nodup_nil
  · rw [h2, hx]; simp [Slot.free]
  · rw [h3]; exact List.nodup_nil
  · rw [h3, hx]; simp [Slot.free]
  · rw [h4] at ho; cases ho
  · rw [h4] at ho; cases ho

theorem State.removalEffects_cacheLawful (s : State) : s.removalEffects.cacheLawful :=
  State.cacheLawful_empty rfl rfl rfl rfl

theorem State.afterClose_cacheLawful {s : State} (hs : s.cacheLawful) : s.afterClose.cacheLawful := by
  simp only [State.afterClose]; split
  · exact State.cacheLawful_congr hs rfl rfl rfl (fun op h => ⟨op, h, rfl⟩) (fun op h => ⟨op, h, rfl⟩)
  · exact State.cacheLawful_congr hs rfl rfl rfl (fun op h => ⟨op, h, rfl⟩) (fun op h => ⟨op, h, rfl⟩)
  · exact State.cacheLawful_empty rfl rfl rfl rfl
  · exact hs

theorem State.closeVolume_cacheLawful {s : State} (hs : s.cacheLawful) : s.closeVolume.cacheLawful := by
  simp only [State.closeVolume]; split
  · exact State.afterClose_cacheLawful hs
  · exact State.cacheLawful_congr ((s.requestWrite_changes .clean).cacheLawful hs) rfl rfl rfl
      (fun op h => ⟨op, h, rfl⟩) (fun op h => ⟨op, h, rfl⟩)

theorem State.followDrain_cacheLawful {s : State} (hs : s.cacheLawful) : s.followDrain.cacheLawful := by
  have h3 : ∀ s : State, s.cacheLawful → s.followDrainEnd.cacheLawful := fun s hs => by
    have h1 : ({ s with power.flsh := false } : State).cacheLawful :=
      State.cacheLawful_congr hs rfl rfl rfl (fun op h => ⟨op, h, rfl⟩) (fun op h => ⟨op, h, rfl⟩)
    simp only [State.followDrainEnd]; split
    · split
      · exact State.closeVolume_cacheLawful h1
      · exact h1
    · exact hs
  have h4 : ∀ s : State, s.cacheLawful → s.followClose.cacheLawful := fun s hs => by
    simp only [State.followClose]; split
    · exact State.afterClose_cacheLawful hs
    · exact hs
  have h5 : ∀ s : State, s.cacheLawful → s.followSleep.cacheLawful := fun s hs => by
    simp only [State.followSleep]; split
    · exact State.cacheLawful_congr hs rfl rfl rfl (fun op h => ⟨op, h, rfl⟩) (fun op h => ⟨op, h, rfl⟩)
    · exact hs
  exact h5 _ (h4 _ (h3 _ ((State.requestMarker_changes _).cacheLawful (s.dropBarredWrite_changes.cacheLawful hs))))

theorem State.followCable_cacheLawful (s0 : State) {s : State} (hs : s.cacheLawful) :
    (State.followCable s0 s).cacheLawful := by
  have h1 : s.followActivity.followSpindles.cacheLawful := by
    obtain ⟨_, _, _, _, h⟩ := s.followActivity_changes
    rw [h]
    exact State.cacheLawful_congr hs rfl rfl rfl (fun op h => ⟨op, h, rfl⟩) (fun op h => ⟨op, h, rfl⟩)
  have h2 : (State.followFaultC s0 s.followActivity.followSpindles).cacheLawful := by
    obtain ⟨_, h⟩ := State.followFaultC_changes s0 s.followActivity.followSpindles
    rw [h]
    exact State.cacheLawful_congr h1 rfl rfl rfl (fun op h => ⟨op, h, rfl⟩) (fun op h => ⟨op, h, rfl⟩)
  obtain ⟨_, _, _, _, h⟩ := State.followFaultD_changes (State.followFaultC s0 s.followActivity.followSpindles)
  rw [State.followCable, h]
  exact State.cacheLawful_congr h2 rfl rfl rfl (fun op h => ⟨op, h, rfl⟩) (fun op h => ⟨op, h, rfl⟩)

theorem State.followCard_cacheLawful {s : State} (hs : s.cacheLawful) : s.followCard.cacheLawful :=
  (State.dropPrefetch_changes _).cacheLawful ((State.followCaptures_changes _).cacheLawful
    (State.decideDeferred_cacheLawful (State.followDrain_cacheLawful (State.decideDeferred_cacheLawful hs))))

/-- The slot that is served is resident, so it is not FREE. -/
theorem State.served_not_free {s : State} {x : Fin 16 × Key} (h : s.served = some x) : (s.slot x.1).state ≠ .free := by
  simp only [State.served] at h
  split at h
  · cases h
  · rename_i k _
    obtain ⟨i, hi, rfl⟩ := Option.map_eq_some_iff.mp h
    have := (Option.mem_filter_iff.mp (show i ∈ (s.findSlot k).filter _ from hi)).2
    intro hf
    rw [hf] at this; cases this

theorem State.followTrack_cacheLawful (s0 : State) {s : State} (hs : s.cacheLawful) :
    (State.followTrack s0 s).cacheLawful := by
  have h1 : s.followGoverning.cacheLawful := by
    obtain ⟨_, _, _, _, _, h⟩ := s.followGoverning_changes
    rw [h]
    exact State.cacheLawful_congr hs rfl rfl rfl (fun op h => ⟨op, h, rfl⟩) (fun op h => ⟨op, h, rfl⟩)
  have h2 : s.followGoverning.followHold.cacheLawful := by
    obtain ⟨_, _, _, h⟩ := s.followGoverning.followHold_changes
    rw [h]
    exact State.cacheLawful_congr h1 rfl rfl rfl (fun op h => ⟨op, h, rfl⟩) (fun op h => ⟨op, h, rfl⟩)
  simp only [State.followTrack, State.followServing]
  split
  · exact h2
  · rename_i x hx
    split
    · exact h2
    · exact State.toFront_cacheLawful h2 x.1 (State.served_not_free hx)

theorem State.followPages_cacheLawful (s0 : State) {s : State} (hs : s.cacheLawful) :
    (State.followPages s0 s).cacheLawful := by
  obtain ⟨_, hp, _⟩ := State.followPages_changes s0 s
  rw [hp]
  exact State.cacheLawful_congr hs rfl rfl rfl (fun op h => ⟨op, h, rfl⟩) (fun op h => ⟨op, h, rfl⟩)

/-- The end of a command keeps the laws of the cache. -/
theorem react_cacheLawful (s0 : State) {s : State} (hs : s.cacheLawful) : (react s0 s).cacheLawful :=
  State.followPages_cacheLawful s0 (State.followTrack_cacheLawful s0
    (State.followCard_cacheLawful (State.followCable_cacheLawful s0 hs)))

end Sys2Proof.Machine
end

