-- ==== Sys2Proof/Laws/Checks.lean ====
section
/-! SUPPORT. Integers and checks as they are stored and read back (R187, R189). -/

namespace Sys2Proof.Machine

theorem byteAt_append_right (l r : List Byte) (i : Nat) : byteAt (l ++ r) (l.length + i) = byteAt r i := by
  simp [byteAt, List.getD_eq_getElem?_getD, List.getElem?_append_right (Nat.le_add_right _ _)]

theorem byteAt_append_left (l r : List Byte) (i : Nat) (h : i < l.length) : byteAt (l ++ r) i = byteAt l i := by
  simp [byteAt, List.getD_eq_getElem?_getD, List.getElem?_append_left h]

@[simp] theorem length_le16 (n : Nat) : (le16 n).length = 2 := rfl

@[simp] theorem length_le32 (n : Nat) : (le32 n).length = 4 := rfl

@[simp] theorem length_checkBytes (bs : List Byte) : (checkBytes bs).length = 4 := rfl

/-- A 16-bit integer reads back from where it stands. -/
theorem le16At_append (l r : List Byte) (n : Nat) : le16At (l ++ le16 n ++ r) l.length = n % 65536 := by
  have h0 : byteAt (l ++ le16 n ++ r) l.length = BitVec.ofNat 8 n := by
    rw [List.append_assoc, ← Nat.add_zero l.length, byteAt_append_right]; rfl
  have h1 : byteAt (l ++ le16 n ++ r) (l.length + 1) = BitVec.ofNat 8 (n / 256) := by
    rw [List.append_assoc, byteAt_append_right]; rfl
  simp only [le16At, h0, h1, BitVec.toNat_ofNat]
  omega

/-- A 32-bit integer reads back from where it stands. -/
theorem le32At_append (l r : List Byte) (n : Nat) (h : n < 4294967296) : le32At (l ++ le32 n ++ r) l.length = n := by
  have h0 := le16At_append l (le16 (n / 65536) ++ r) n
  have h1 := le16At_append (l ++ le16 n) r (n / 65536)
  simp only [List.append_assoc, List.length_append, length_le16] at h0 h1
  simp only [le32At, le32, List.append_assoc, h0, h1]
  omega

/-- A check stored after the bytes it covers passes. -/
theorem checkPasses_append (bs rest : List Byte) : checkPasses (bs ++ checkBytes bs ++ rest) bs.length = true := by
  have h := le32At_append bs rest (crc32 bs).toNat (crc32 bs).isLt
  simp only [checkPasses, checkBytes, h]
  simp

/-- A serialised record's check passes (R188). -/
theorem recordCheckPasses_append (bs : List Byte) : recordCheckPasses (bs ++ checkBytes bs) = true := by
  have h := checkPasses_append bs []
  simpa [recordCheckPasses] using h

theorem recordCheckPasses_serialise (r : Record) (c h g : Nat) : recordCheckPasses (serialise r c h g) = true :=
  recordCheckPasses_append _

end Sys2Proof.Machine
end

