-- ==== Sys2Proof/Laws/Decoder.lean ====
section
/-! SUPPORT. What recording a cell, and a cell time, do to a capture (R66, R67). -/

namespace Sys2Proof.Machine

/-- Two captures with the same drive, key, frame and flags. -/
structure Capture.SameFrame (c c' : Capture) : Prop where
  drive : c'.drive = c.drive
  key : c'.key = c.key
  encoding : c'.encoding = c.encoding
  rate : c'.rate = c.rate
  cells : c'.cells = c.cells
  start : c'.start = c.start
  frameChanged : c'.frameChanged = c.frameChanged
  orphaned : c'.orphaned = c.orphaned
  crossings : c'.crossings = c.crossings

theorem Capture.SameFrame.refl (c : Capture) : c.SameFrame c := ⟨rfl, rfl, rfl, rfl, rfl, rfl, rfl, rfl, rfl⟩

theorem Capture.SameFrame.trans {a b c : Capture} (h : a.SameFrame b) (k : b.SameFrame c) : a.SameFrame c :=
  ⟨k.drive.trans h.drive, k.key.trans h.key, k.encoding.trans h.encoding, k.rate.trans h.rate, k.cells.trans h.cells,
    k.start.trans h.start, k.frameChanged.trans h.frameChanged, k.orphaned.trans h.orphaned,
    k.crossings.trans h.crossings⟩

theorem Capture.holdCell_keeps (c : Capture) (cell : Bool) :
    c.SameFrame (c.holdCell cell) ∧ (c.holdCell cell).phase = c.phase ∧ (c.holdCell cell).count = c.count + 1 := by
  unfold Capture.holdCell
  split <;> exact ⟨⟨rfl, rfl, rfl, rfl, rfl, rfl, rfl, rfl, rfl⟩, rfl, rfl⟩

theorem Capture.feedField_keeps (c : Capture) (cell : Bool) :
    c.SameFrame (c.feedField cell) ∧ (c.feedField cell).phase = c.phase ∧ (c.feedField cell).count = c.count
      ∧ (c.feedField cell).revCells = c.revCells := by
  unfold Capture.feedField
  split
  · exact ⟨.refl c, rfl, rfl, rfl⟩
  · dsimp only
    split <;> exact ⟨⟨rfl, rfl, rfl, rfl, rfl, rfl, rfl, rfl, rfl⟩, rfl, rfl, rfl⟩

theorem Capture.openMark_keeps (c : Capture) (k : FieldKind) :
    c.SameFrame (c.openMark k) ∧ (c.openMark k).phase = c.phase ∧ (c.openMark k).count = c.count
      ∧ (c.openMark k).revCells = c.revCells := by
  cases k <;> exact ⟨⟨rfl, rfl, rfl, rfl, rfl, rfl, rfl, rfl, rfl⟩, rfl, rfl, rfl⟩

theorem Capture.feedWindow_keeps (c : Capture) (cell : Bool) :
    c.SameFrame (c.feedWindow cell) ∧ (c.feedWindow cell).phase = c.phase ∧ (c.feedWindow cell).count = c.count
      ∧ (c.feedWindow cell).revCells = c.revCells := by
  unfold Capture.feedWindow
  dsimp only
  split
  · exact ⟨⟨rfl, rfl, rfl, rfl, rfl, rfl, rfl, rfl, rfl⟩, rfl, rfl, rfl⟩
  · exact ⟨⟨rfl, rfl, rfl, rfl, rfl, rfl, rfl, rfl, rfl⟩, rfl, rfl, rfl⟩
  · rename_i k _
    cases k <;> exact ⟨⟨rfl, rfl, rfl, rfl, rfl, rfl, rfl, rfl, rfl⟩, rfl, rfl, rfl⟩

/-- A cell recorded counts, joins the cells held and leaves the frame, the flags and the clock (R66). -/
theorem Capture.record_keeps (c : Capture) (cell : Bool) :
    c.SameFrame (c.record cell) ∧ (c.record cell).phase = c.phase ∧ (c.record cell).count = c.count + 1
      ∧ (c.record cell).revCells = (c.holdCell cell).revCells := by
  have h := c.holdCell_keeps cell
  have f := (c.holdCell cell).feedField_keeps cell
  have w := ((c.holdCell cell).feedField cell).feedWindow_keeps cell
  exact ⟨h.1.trans (f.1.trans w.1), w.2.1.trans (f.2.1.trans h.2.1), w.2.2.1.trans (f.2.2.1.trans h.2.2),
    w.2.2.2.trans f.2.2.2⟩

/-- The cells due are recorded and the rest of the time stands over, where as many cell times may be gone through as
the time holds (R66, log 9). -/
theorem Capture.recordDue_keeps (n : Nat) (wdata : List Bool) (c : Capture)
    (h : c.phase < (n + 1) * c.rate.cellMicros) :
    let t := Capture.recordDue n wdata c
    c.SameFrame t ∧ t.phase = c.phase % c.rate.cellMicros ∧ t.count = c.count + c.phase / c.rate.cellMicros := by
  induction n generalizing wdata c with
  | zero =>
    have h : c.phase < c.rate.cellMicros := by omega
    exact ⟨.refl c, (Nat.mod_eq_of_lt h).symm, by simp [Capture.recordDue, Nat.div_eq_of_lt h]⟩
  | succ n ih =>
    unfold Capture.recordDue
    split
    · rename_i lt
      exact ⟨.refl c, (Nat.mod_eq_of_lt lt).symm, by simp [Nat.div_eq_of_lt lt]⟩
    · rename_i ge
      have pos : 0 < c.rate.cellMicros := by cases c.rate <;> decide
      have r := c.record_keeps (wdata.headD false)
      have whole : c.rate.cellMicros ≤ c.phase := Nat.le_of_not_lt ge
      have left : c.phase - c.rate.cellMicros < (n + 1) * (c.record (wdata.headD false)).rate.cellMicros := by
        rw [r.1.rate]
        rw [Nat.succ_mul] at h
        exact Nat.sub_lt_left_of_lt_add whole (by omega)
      have i := ih wdata.tail { c.record (wdata.headD false) with phase := c.phase - c.rate.cellMicros } left
      have frame : c.SameFrame { c.record (wdata.headD false) with phase := c.phase - c.rate.cellMicros } :=
        ⟨r.1.drive, r.1.key, r.1.encoding, r.1.rate, r.1.cells, r.1.start, r.1.frameChanged, r.1.orphaned,
          r.1.crossings⟩
      refine ⟨frame.trans i.1, ?_, ?_⟩
      · refine i.2.1.trans ?_
        show (c.phase - c.rate.cellMicros) % (c.record (wdata.headD false)).rate.cellMicros = _
        rw [r.1.rate]
        exact (Nat.mod_eq_sub_mod whole).symm
      · refine i.2.2.trans ?_
        show (c.record (wdata.headD false)).count
          + (c.phase - c.rate.cellMicros) / (c.record (wdata.headD false)).rate.cellMicros = _
        rw [r.1.rate, r.2.2.1, Nat.div_eq_sub_div pos whole, Nat.add_assoc, Nat.add_comm 1]

/-- A cell time of any governing rate records the cells that its time completes at the capture frame's own rate, and
leaves the frame and the flags (R66, R67). -/
theorem Capture.tick_keeps (gov : CellRate) (wdata : List Bool) (c : Capture) (h : c.phase < c.rate.cellMicros) :
    let t := c.tick gov wdata
    let elapsed := c.phase + gov.cellMicros
    c.SameFrame t ∧ t.phase = elapsed % c.rate.cellMicros ∧ t.count = c.count + elapsed / c.rate.cellMicros := by
  have k := Capture.recordDue_keeps 4 wdata { c with phase := c.phase + gov.cellMicros }
    (by revert h; cases gov <;> cases c.rate <;> simp [CellRate.cellMicros] <;> omega)
  exact ⟨⟨k.1.drive, k.1.key, k.1.encoding, k.1.rate, k.1.cells, k.1.start, k.1.frameChanged, k.1.orphaned,
    k.1.crossings⟩, k.2.1, k.2.2⟩

end Sys2Proof.Machine
end

