-- ==== Sys2Proof/Laws/Loads.lean ====
section
/-! SUPPORT. The laws of the load list (R98, R99): removals keep them, and so does every request and the end of a
command; what a DEMAND request leaves in the list. -/

namespace Sys2Proof.Machine

/-! ### The list -/

/-- The laws of the load list, of the list itself. -/
def LoadsLawful (l : List LoadEntry) : Prop :=
  l.length ≤ Config.loadListSize ∧ (l.map LoadEntry.key).Nodup ∧ demandFirst l = true

theorem State.loadsLawful_iff (s : State) : s.loadsLawful ↔ LoadsLawful s.cache.loads := Iff.rfl

/-- DEMAND before PREFETCH, pair by pair. -/
theorem demandFirst_iff (l : List LoadEntry) :
    demandFirst l = true ↔ l.Pairwise fun x y => x.kind = .demand ∨ y.kind = .prefetch := by
  induction l with
  | nil => simp [demandFirst]
  | cons x xs ih =>
    simp only [demandFirst, Bool.and_eq_true, Bool.or_eq_true, decide_eq_true_eq, List.all_eq_true,
      List.pairwise_cons, ih]
    refine and_congr_left fun _ => ⟨fun h y hy => h.imp_right fun g => g y hy, fun h => ?_⟩
    by_cases hx : x.kind = .demand
    · exact .inl hx
    · exact .inr fun y hy => (h y hy).resolve_left hx

/-- Entries may go from anywhere. -/
theorem LoadsLawful.sublist {l m : List LoadEntry} (h : LoadsLawful l) (hm : m.Sublist l) : LoadsLawful m :=
  ⟨Nat.le_trans hm.length_le h.1, (hm.map _).nodup h.2.1,
    (demandFirst_iff m).mpr (((demandFirst_iff l).mp h.2.2).sublist hm)⟩

theorem LoadsLawful.nil : LoadsLawful [] := ⟨Nat.zero_le _, List.nodup_nil, rfl⟩

theorem LoadKind.prefetch_of_ne {k : LoadKind} (h : k ≠ .demand) : k = .prefetch := by cases k <;> simp_all

/-- The entries of a list with a DEMAND entry added are that entry and those of the list. -/
theorem addDemand_perm (x : LoadEntry) (l : List LoadEntry) : (addDemand x l).Perm (x :: l) := by
  refine List.perm_middle.trans (List.Perm.cons x ?_)
  have h := List.filter_append_perm (fun y : LoadEntry => decide (y.kind = .demand)) l
  simpa only [ne_eq, decide_not] using h

theorem mem_addDemand (x y : LoadEntry) (l : List LoadEntry) : y ∈ addDemand x l ↔ y = x ∨ y ∈ l := by
  rw [(addDemand_perm x l).mem_iff, List.mem_cons]

/-- A DEMAND entry with a new key added where there is room. -/
theorem addDemand_lawful (x : LoadEntry) (l : List LoadEntry) (hx : x.kind = .demand) (h : LoadsLawful l)
    (hlen : l.length < Config.loadListSize) (hk : ∀ y ∈ l, y.key ≠ x.key) : LoadsLawful (addDemand x l) := by
  refine ⟨?_, ?_, ?_⟩
  · rw [(addDemand_perm x l).length_eq]; exact hlen
  · rw [((addDemand_perm x l).map _).nodup_iff, List.map_cons, List.nodup_cons]
    refine ⟨fun hm => ?_, h.2.1⟩
    obtain ⟨y, hy, he⟩ := List.mem_map.mp hm
    exact hk y hy he
  · rw [demandFirst_iff, addDemand, List.pairwise_append, List.pairwise_cons]
    refine ⟨?_, ⟨?_, ?_⟩, ?_⟩
    · exact ((demandFirst_iff l).mp h.2.2).sublist List.filter_sublist
    · exact fun _ _ => .inl hx
    · exact ((demandFirst_iff l).mp h.2.2).sublist List.filter_sublist
    · intro a ha b _
      exact .inl (of_decide_eq_true (List.mem_filter.mp ha).2)

theorem makeRoom_sublist (l : List LoadEntry) : (makeRoom l).Sublist l := by
  simp only [makeRoom]; split
  · exact List.dropLast_sublist l
  · exact List.Sublist.refl l

theorem makeRoom_length (l : List LoadEntry) (h : l.length ≤ Config.loadListSize) :
    (makeRoom l).length < Config.loadListSize := by
  simp only [makeRoom]; split
  · rw [List.length_dropLast]; simp only [Config.loadListSize] at *; omega
  · omega

/-! ### Requests -/

/-- A DEMAND request keeps the laws of the list. -/
theorem State.requestLoad_loadsLawful {s : State} (hs : s.loadsLawful) (k : Key) (d : Drive) :
    (s.requestLoad k d).loadsLawful := by
  simp only [State.requestLoad]
  split
  · exact hs
  · split
    · rename_i y hy
      have hmem := List.mem_of_find?_eq_some hy
      have hkey : y.key = k := by have := List.find?_some hy; simpa using this
      split
      · exact hs
      · refine addDemand_lawful _ _ rfl (LoadsLawful.sublist hs List.filter_sublist) ?_ ?_
        · have h1 := List.length_filter_lt_length_iff_exists (p := fun z : LoadEntry => decide (z.key ≠ k))
            (l := s.cache.loads)
          exact Nat.lt_of_lt_of_le (h1.mpr ⟨y, hmem, by simp [hkey]⟩) hs.1
        · intro z hz; exact of_decide_eq_true (List.mem_filter.mp hz).2
    · rename_i hn
      refine addDemand_lawful _ _ rfl (LoadsLawful.sublist hs (makeRoom_sublist _)) (makeRoom_length _ hs.1) ?_
      intro z hz he
      have := List.find?_eq_none.mp hn z ((makeRoom_sublist _).subset hz)
      simp only [decide_eq_true_eq] at this
      exact this he

/-- After a DEMAND request for a key that is not cached the key stands in the list as a DEMAND entry. -/
theorem State.requestLoad_listed (s : State) (k : Key) (d : Drive) (h : s.isCached k = false) :
    ∃ x ∈ (s.requestLoad k d).cache.loads, x.key = k ∧ x.kind = .demand := by
  simp only [State.requestLoad, h]
  split
  · rename_i hc; cases hc
  · split
    · rename_i y hy
      have hmem := List.mem_of_find?_eq_some hy
      have hkey : y.key = k := by have := List.find?_some hy; simpa using this
      split
      · rename_i hkind; exact ⟨y, hmem, hkey, hkind⟩
      · exact ⟨_, (mem_addDemand _ _ _).mpr (.inl rfl), rfl, rfl⟩
    · exact ⟨_, (mem_addDemand _ _ _).mpr (.inl rfl), rfl, rfl⟩

theorem State.requestLoads_loadsLawful {s : State} (hs : s.loadsLawful) (d : Drive) (ks : List Key) :
    (s.requestLoads d ks).loadsLawful :=
  foldl_keeps State.loadsLawful _
    (fun t k h => by
      split
      · exact h
      · exact State.requestLoad_loadsLawful h k d) ks s hs

theorem State.requestCylinder_loadsLawful {s : State} (hs : s.loadsLawful) (d : Drive) :
    (s.requestCylinder d).loadsLawful := by
  simp only [State.requestCylinder]; split
  · exact State.requestLoads_loadsLawful hs d _
  · exact hs

theorem State.requestSettled_loadsLawful {s : State} (hs : s.loadsLawful) (d : Drive) :
    (s.requestSettled d).loadsLawful := by
  simp only [State.requestSettled]; split
  · exact State.requestCylinder_loadsLawful hs d
  · exact hs

theorem State.renewDemand_loadsLawful {s : State} (hs : s.loadsLawful) (k : Key) : (s.renewDemand k).loadsLawful := by
  simp only [State.renewDemand]; split
  · exact hs
  · split
    · exact hs
    · exact State.requestLoad_loadsLawful hs k _

theorem State.addPrefetch_loadsLawful {s : State} (hs : s.loadsLawful) (d : Drive) (k : Key) :
    (s.addPrefetch d k).loadsLawful := by
  simp only [State.addPrefetch]; split
  · rename_i h
    simp only [Bool.and_eq_true, Bool.not_eq_true', decide_eq_true_eq] at h
    obtain ⟨⟨⟨_, hk⟩, hlen⟩, _⟩ := h
    refine ⟨?_, ?_, ?_⟩
    · simp only [List.length_append, List.length_singleton]; exact hlen
    · show ((s.cache.loads ++ _).map LoadEntry.key).Nodup
      rw [List.map_append, List.nodup_append]
      refine ⟨hs.2.1, by simp, fun a ha b hb => ?_⟩
      simp only [List.map_cons, List.map_nil, List.mem_singleton] at hb
      obtain ⟨y, hy, rfl⟩ := List.mem_map.mp ha
      intro he
      have := List.any_eq_false.mp hk y hy
      simp only [decide_eq_true_eq] at this
      exact this (he.trans hb)
    · rw [demandFirst_iff, List.pairwise_append]
      refine ⟨(demandFirst_iff _).mp hs.2.2, List.pairwise_singleton _ _, fun a _ b hb => ?_⟩
      rw [List.mem_singleton.mp hb]; exact .inr rfl
  · exact hs

theorem State.considerPrefetch_loadsLawful {s : State} (hs : s.loadsLawful) (k : Key) (d : Drive) :
    (s.considerPrefetch k d).loadsLawful := by
  simp only [State.considerPrefetch]; split
  · split
    · exact hs
    · split
      · exact hs
      · exact foldl_keeps State.loadsLawful _ (fun t k h => State.addPrefetch_loadsLawful h d k) _ s hs
  · exact hs

theorem State.prefetchAfter_loadsLawful {s : State} (hs : s.loadsLawful) (x : Slot) :
    (s.prefetchAfter x).loadsLawful := by
  simp only [State.prefetchAfter]; split
  · split
    · exact State.considerPrefetch_loadsLawful hs _ _
    · exact hs
  · exact hs

/-! ### The end of a command -/

theorem State.requestFor_loadsLawful {s : State} (hs : s.loadsLawful) (b : BufferId) :
    (s.requestFor b).loadsLawful := by
  simp only [State.requestFor]; split
  · split
    · exact State.requestLoad_loadsLawful hs _ _
    · exact hs
  · exact hs

theorem State.dropPrefetch_loadsLawful {s : State} (hs : s.loadsLawful) : s.dropPrefetch.loadsLawful := by
  simp only [State.dropPrefetch]; split
  · exact hs
  · exact LoadsLawful.sublist hs (List.dropWhile_sublist _)

theorem State.loadsLawful_congr {s t : State} (hs : s.loadsLawful) (h : t.cache.loads = s.cache.loads) :
    t.loadsLawful := by
  rw [State.loadsLawful_iff, h]; exact hs

theorem State.unmountSlots_loads (s : State) (image : Nat) (overlay : Bool) :
    (s.unmountSlots image overlay).cache.loads = s.cache.loads := by
  obtain ⟨_, _, _, h⟩ := s.unmountSlots_changes image overlay; rw [h]

theorem State.orphanCaptures_loads (s : State) (hit : Capture → Bool) :
    (s.orphanCaptures hit).cache.loads = s.cache.loads := by
  obtain ⟨_, h⟩ := s.orphanCaptures_changes hit; rw [h]

theorem OnlyWrite.loads {s t : State} (h : OnlyWrite s t) : t.cache.loads = s.cache.loads := by
  obtain ⟨_, rfl⟩ := h; rfl

theorem State.unmountImage_loadsLawful {s : State} (hs : s.loadsLawful) (d : Drive) (image : Nat) :
    (s.unmountImage d image).loadsLawful := by
  refine State.loadsLawful_congr (s := { s with cache.loads := s.cache.loads.filter fun x => decide (x.key.image ≠ image) })
    (LoadsLawful.sublist hs List.filter_sublist) ?_
  simp only [State.unmountImage, State.setDrive_cache, State.unmountSlots_loads, State.orphanCaptures_loads]

theorem State.unmountDrive_loadsLawful {s : State} (hs : s.loadsLawful) (d : Drive) : (s.unmountDrive d).loadsLawful := by
  simp only [State.unmountDrive]; split
  · exact hs
  · exact State.unmountImage_loadsLawful hs d _

theorem State.decideMount_loadsLawful {s : State} (hs : s.loadsLawful) (m : MountRequest) :
    (s.decideMount m).loadsLawful := by
  simp only [State.decideMount]; split
  · exact State.loadsLawful_congr hs rfl
  · split
    · refine State.loadsLawful_congr (State.unmountDrive_loadsLawful hs m.drive) ?_
      rw [State.doMount, (State.requestWrite_changes _ .recorded).loads, State.setDrive_cache]
    · split
      · exact hs
      · exact State.loadsLawful_congr (State.unmountDrive_loadsLawful hs m.drive)
          (State.requestWrite_changes _ .recorded).loads

theorem State.decideDeferred_loadsLawful {s : State} (hs : s.loadsLawful) : s.decideDeferred.loadsLawful := by
  simp only [State.decideDeferred]; split
  · exact hs
  · exact foldl_keeps State.loadsLawful _ (fun t m h => State.decideMount_loadsLawful h m) _ _
      (State.loadsLawful_congr hs rfl)

theorem State.removalEffects_loadsLawful (s : State) : s.removalEffects.loadsLawful := LoadsLawful.nil

theorem State.afterClose_loadsLawful {s : State} (hs : s.loadsLawful) : s.afterClose.loadsLawful := by
  simp only [State.afterClose]; split
  · exact hs
  · exact hs
  · exact LoadsLawful.nil
  · exact hs

theorem State.closeVolume_loadsLawful {s : State} (hs : s.loadsLawful) : s.closeVolume.loadsLawful := by
  simp only [State.closeVolume]; split
  · exact State.afterClose_loadsLawful hs
  · exact State.loadsLawful_congr hs (s.requestWrite_changes .clean).loads

theorem State.followDrain_loadsLawful {s : State} (hs : s.loadsLawful) : s.followDrain.loadsLawful := by
  have h3 : ∀ s : State, s.loadsLawful → s.followDrainEnd.loadsLawful := fun s hs => by
    simp only [State.followDrainEnd]; split
    · split
      · exact State.closeVolume_loadsLawful hs
      · exact hs
    · exact hs
  have h4 : ∀ s : State, s.loadsLawful → s.followClose.loadsLawful := fun s hs => by
    simp only [State.followClose]; split
    · exact State.afterClose_loadsLawful hs
    · exact hs
  have h5 : ∀ s : State, s.loadsLawful → s.followSleep.loadsLawful := fun s hs => by
    simp only [State.followSleep]; split <;> exact hs
  have h2 : s.dropBarredWrite.requestMarker.cache.loads = s.cache.loads :=
    (State.requestMarker_changes _).loads.trans s.dropBarredWrite_changes.loads
  exact h5 _ (h4 _ (h3 _ (State.loadsLawful_congr hs h2)))

theorem State.followCable_loads (s0 s : State) : (State.followCable s0 s).cache.loads = s.cache.loads := by
  have h1 : s.followActivity.cache.loads = s.cache.loads := by
    obtain ⟨_, _, _, _, h⟩ := s.followActivity_changes; rw [h]
  have h2 : ∀ s : State, (State.followFaultC s0 s).cache.loads = s.cache.loads := fun s => by
    obtain ⟨_, h⟩ := State.followFaultC_changes s0 s; rw [h]
  have h3 : ∀ s : State, s.followFaultD.cache.loads = s.cache.loads := fun s => by
    obtain ⟨_, _, _, _, h⟩ := s.followFaultD_changes; rw [h]
  rw [State.followCable, h3, h2]
  exact h1

theorem State.followCard_loadsLawful {s : State} (hs : s.loadsLawful) : s.followCard.loadsLawful :=
  State.dropPrefetch_loadsLawful (State.requestFor_loadsLawful (State.requestFor_loadsLawful
    (State.decideDeferred_loadsLawful (State.followDrain_loadsLawful (State.decideDeferred_loadsLawful hs))) .one) .two)

theorem State.followTrack_loads (s0 s : State) : (State.followTrack s0 s).cache.loads = s.cache.loads := by
  have h1 : s.followGoverning.cache.loads = s.cache.loads := by
    obtain ⟨_, _, _, _, _, h⟩ := s.followGoverning_changes; rw [h]
  have h2 : ∀ s : State, s.followHold.cache.loads = s.cache.loads := fun s => by
    obtain ⟨_, _, _, h⟩ := s.followHold_changes; rw [h]
  have h3 : ∀ s : State, (State.followServing s0 s).cache.loads = s.cache.loads := fun s => by
    obtain ⟨_, h⟩ := State.followServing_changes s0 s; rw [h]
  rw [State.followTrack, h3, h2, h1]

theorem State.followPages_loads (s0 s : State) : (State.followPages s0 s).cache.loads = s.cache.loads := by
  obtain ⟨_, h, _⟩ := State.followPages_changes s0 s; rw [h]

/-- The load list at the end of a command is the one that the rules of the card leave. -/
theorem react_loads (s0 s : State) : (react s0 s).cache.loads = (State.followCable s0 s).followCard.cache.loads := by
  rw [react, State.followPages_loads, State.followTrack_loads]

/-- The end of a command keeps the laws of the load list. -/
theorem react_loadsLawful (s0 : State) {s : State} (hs : s.loadsLawful) : (react s0 s).loadsLawful :=
  State.loadsLawful_congr (State.followCard_loadsLawful (State.loadsLawful_congr hs (State.followCable_loads s0 s)))
    (react_loads s0 s)

end Sys2Proof.Machine
end

