-- ==== Sys2Proof/Laws/Memory.lean ====
section
/-! SUPPORT. The card's bytes: every operation keeps the canonical form, and what a byte reads after a write. -/

namespace Sys2Proof.Machine

/-! ### One byte -/

/-- An address below every listed one reads as unlisted. -/
theorem Memory.read_of_lt : ∀ (m : Memory) (lo a : Nat), Memory.wfFrom (some lo) m = true → a ≤ lo →
    Memory.read m a = Memory.unlisted
  | [], _, _, _, _ => rfl
  | (k, v) :: m, lo, a, h, ha => by
    simp only [Memory.wfFrom, Bool.and_eq_true, decide_eq_true_eq] at h
    have hk : k ≠ a := by omega
    simp only [Memory.read, hk, if_false]
    exact Memory.read_of_lt m k a h.2 (by omega)

/-- A canonical memory stays so under a weaker lower bound. -/
theorem Memory.wfFrom_mono {m : Memory} {lo lo' : Nat} (h : Memory.wfFrom (some lo) m = true) (hl : lo' ≤ lo) :
    Memory.wfFrom (some lo') m = true := by
  cases m with
  | nil => rfl
  | cons c m =>
    simp only [Memory.wfFrom, Bool.and_eq_true, decide_eq_true_eq] at h ⊢
    exact ⟨⟨by omega, h.1.2⟩, h.2⟩

theorem Memory.wf_of_wfFrom {m : Memory} {lo : Option Nat} (h : Memory.wfFrom lo m = true) : Memory.wf m = true := by
  cases m with
  | nil => rfl
  | cons c m =>
    simp only [Memory.wf, Memory.wfFrom, Bool.and_eq_true] at h ⊢
    exact ⟨⟨trivial, h.1.2⟩, h.2⟩

/-- A write keeps the canonical form above a bound it respects. -/
theorem Memory.wfFrom_write : ∀ (m : Memory) (lo : Option Nat) (a : Nat) (v : Byte), Memory.wfFrom lo m = true →
    (∀ l, lo = some l → l < a) → Memory.wfFrom lo (Memory.write m a v) = true
  | [], lo, a, v, _, ha => by
    simp only [Memory.write]
    split
    · rfl
    · rename_i hv
      cases lo with
      | none => simp [Memory.wfFrom, hv]
      | some l => simp [Memory.wfFrom, hv, ha l rfl]
  | (k, w) :: m, lo, a, v, h, ha => by
    simp only [Memory.wfFrom, Bool.and_eq_true] at h
    simp only [Memory.write]
    split
    · rename_i hak
      split
      · simp [Memory.wfFrom, h]
      · rename_i hv
        cases lo with
        | none => simp [Memory.wfFrom, hv, hak, h.1.2, h.2]
        | some l => simp [Memory.wfFrom, hv, hak, h.1.2, h.2, ha l rfl]
    · split
      · rename_i hak
        subst hak
        split
        · cases lo with
          | none => exact Memory.wf_of_wfFrom h.2
          | some l =>
            have hl := h.1.1
            simp only [decide_eq_true_eq] at hl
            exact Memory.wfFrom_mono h.2 (by omega)
        · rename_i hv
          simp [Memory.wfFrom, hv, h.1.1, h.2]
      · simp only [Memory.wfFrom, Bool.and_eq_true]
        refine ⟨h.1, Memory.wfFrom_write m (some k) a v h.2 fun l hl => ?_⟩
        cases hl
        omega

/-- A write keeps the canonical form. -/
theorem Memory.wf_write {m : Memory} (h : Memory.wf m = true) (a : Nat) (v : Byte) :
    Memory.wf (Memory.write m a v) = true :=
  Memory.wfFrom_write m none a v h (by simp)

/-- What a byte reads after a write, above a bound. -/
theorem Memory.read_writeFrom : ∀ (m : Memory) (lo : Option Nat) (a b : Nat) (v : Byte), Memory.wfFrom lo m = true →
    Memory.read (Memory.write m a v) b = if b = a then v else Memory.read m b
  | [], _, a, b, v, _ => by
    simp only [Memory.write]
    split
    · rename_i hv; subst hv; simp [Memory.read]
    · simp only [Memory.read]; split <;> split <;> simp_all
  | (k, w) :: m, lo, a, b, v, h => by
    simp only [Memory.wfFrom, Bool.and_eq_true] at h
    simp only [Memory.write]
    split
    · rename_i hak
      have hb : b = a → Memory.read ((k, w) :: m) b = Memory.unlisted := by
        intro e
        subst e
        simp only [Memory.read]
        rw [if_neg (by omega)]
        exact Memory.read_of_lt m k b h.2 (by omega)
      split
      · rename_i hv
        by_cases e : b = a
        · rw [hb e, if_pos e, hv]
        · rw [if_neg e]
      · simp only [Memory.read]
        by_cases e : b = a
        · simp [e]
        · have : a ≠ b := fun x => e x.symm
          simp [e, this]
    · split
      · rename_i hak
        subst hak
        split
        · rename_i hv
          by_cases e : b = a
          · rw [if_pos e, hv, e]; exact Memory.read_of_lt m a a h.2 (Nat.le_refl a)
          · have : a ≠ b := fun x => e x.symm
            simp [Memory.read, e, this]
        · by_cases e : b = a
          · simp [Memory.read, e]
          · have : a ≠ b := fun x => e x.symm
            simp [Memory.read, e, this]
      · simp only [Memory.read, Memory.read_writeFrom m (some k) a b v h.2]
        by_cases e : b = a
        · subst e
          rename_i h1 h2
          have : k ≠ b := fun x => h2 x.symm
          simp [this]
        · simp [e]

/-- What a byte reads after a write. -/
theorem Memory.read_write {m : Memory} (h : Memory.wf m = true) (a b : Nat) (v : Byte) :
    Memory.read (Memory.write m a v) b = if b = a then v else Memory.read m b :=
  Memory.read_writeFrom m none a b v h

/-- A byte at another address reads as before a write, canonical form or not. -/
theorem Memory.read_write_other : ∀ (m : Memory) (a b : Nat) (v : Byte), b ≠ a →
    Memory.read (Memory.write m a v) b = Memory.read m b
  | [], a, b, v, h => by
    have : a ≠ b := fun e => h e.symm
    simp only [Memory.write]; split <;> simp [Memory.read, this]
  | (k, w) :: m, a, b, v, h => by
    have hab : a ≠ b := fun e => h e.symm
    simp only [Memory.write]
    split
    · split <;> simp [Memory.read, hab]
    · split
      · rename_i hk
        subst hk
        split <;> simp [Memory.read, hab]
      · simp only [Memory.read, Memory.read_write_other m a b v h]

/-! ### Runs of bytes -/

/-- A run written keeps the canonical form. -/
theorem Memory.wf_writeBytes (vs : List Byte) : ∀ (m : Memory) (a : Nat), Memory.wf m = true →
    Memory.wf (Memory.writeBytes m a vs) = true := by
  induction vs with
  | nil => intro m a h; exact h
  | cons v vs ih => intro m a h; exact ih _ _ (Memory.wf_write h a v)

/-- A byte outside a run reads as before it was written. -/
theorem Memory.read_writeBytes_outside (vs : List Byte) : ∀ (m : Memory) (a b : Nat), b < a ∨ a + vs.length ≤ b →
    Memory.read (Memory.writeBytes m a vs) b = Memory.read m b := by
  induction vs with
  | nil => intro m a b _; rfl
  | cons v vs ih =>
    intro m a b h
    simp only [List.length_cons] at h
    simp only [Memory.writeBytes]
    rw [ih _ _ _ (by omega), Memory.read_write_other _ _ _ _ (by omega)]

/-- A byte of a run reads as it was written. -/
theorem Memory.read_writeBytes_inside (vs : List Byte) : ∀ (m : Memory) (a i : Nat), Memory.wf m = true →
    i < vs.length → Memory.read (Memory.writeBytes m a vs) (a + i) = vs.getD i 0 := by
  induction vs with
  | nil => intro m a i _ h; simp at h
  | cons v vs ih =>
    intro m a i hm h
    simp only [List.length_cons] at h
    simp only [Memory.writeBytes]
    cases i with
    | zero =>
      rw [Nat.add_zero, Memory.read_writeBytes_outside vs _ _ _ (by omega), Memory.read_write hm]
      simp
    | succ i =>
      rw [show a + (i + 1) = (a + 1) + i by omega, ih _ _ _ (Memory.wf_write hm a v) (by omega)]
      simp

@[simp] theorem Memory.length_readBytes (m : Memory) : ∀ (n a : Nat), (Memory.readBytes m a n).length = n
  | 0, _ => rfl
  | n + 1, a => by simp [Memory.readBytes, Memory.length_readBytes m n]

/-- Reading a run back. -/
theorem Memory.readBytes_writeBytes (vs : List Byte) : ∀ (m : Memory) (a : Nat), Memory.wf m = true →
    Memory.readBytes (Memory.writeBytes m a vs) a vs.length = vs := by
  induction vs with
  | nil => intro m a _; rfl
  | cons v vs ih =>
    intro m a hm
    simp only [Memory.writeBytes, List.length_cons, Memory.readBytes]
    rw [ih _ _ (Memory.wf_write hm a v), Memory.read_writeBytes_outside vs _ _ _ (by omega), Memory.read_write hm,
      if_pos rfl]

/-- Any list of pairs comes into the canonical form. -/
theorem Memory.wf_ofCells (cs : List Host.Cell) : Memory.wf (Memory.ofCells cs) = true := by
  have h : ∀ (l : List Host.Cell) (m : Memory), Memory.wf m = true →
      Memory.wf (l.foldl (fun m c => Memory.write m c.1 c.2) m) = true := by
    intro l
    induction l with
    | nil => intro m h; exact h
    | cons c l ih => intro m h; exact ih _ (Memory.wf_write h c.1 c.2)
  exact h cs [] rfl

/-! ### The operations on the card's bytes -/

theorem wf_cutMedium {m : Memory} (h : Memory.wf m = true) (n block : Nat) (new : List Byte) (f : List Byte → Bool) :
    Memory.wf (cutMedium m n block new f) = true :=
  Memory.wf_writeBytes _ _ _ h

theorem wf_writePlace {m : Memory} (h : Memory.wf m = true) (base : Nat) (p : Place) (bs : List Byte) :
    Memory.wf (writePlace m base p bs) = true :=
  Memory.wf_writeBytes _ _ _ h

theorem wf_changeBlock0 {m : Memory} (h : Memory.wf m = true) (b : Option (List Byte)) :
    Memory.wf (changeBlock0 m b) = true := by
  cases b
  · exact h
  · exact Memory.wf_writeBytes _ _ _ h

/-- A cut write leaves the canonical form. -/
theorem wf_cutWrite {s : State} (h : Memory.wf s.card.medium = true) : Memory.wf s.cutWrite.card.medium = true := by
  simp only [State.cutWrite]
  split
  · exact h
  · exact wf_cutMedium h _ _ _ _

/-- The memory after reset has the canonical form. -/
theorem wf_reset : Memory.wf State.reset.card.medium = true := rfl

/-! ### A write cut off -/

theorem length_padTo (n : Nat) (bs : List Byte) : (padTo n bs).length = n := by
  simp [padTo]; omega

/-- A run cut off has the length it had. -/
theorem length_cutRun (before new torn : List Byte) (whole : Nat) (f : List Byte → Bool) (n : Nat)
    (hb : before.length = n * Config.blockBytes) (hn : n * Config.blockBytes ≤ new.length) (hw : whole ≤ n) :
    (cutRun before new whole torn f).length = before.length := by
  have hm : whole * Config.blockBytes ≤ n * Config.blockBytes := Nat.mul_le_mul_right _ hw
  simp only [cutRun]
  split
  · simp only [List.length_append, List.length_take, List.length_drop]; omega
  · rename_i h
    split
    · rfl
    · have hlt : whole < n := by
        rcases Nat.lt_or_ge whole n with h1 | h1
        · exact h1
        · have : whole = n := by omega
          subst this
          exact absurd (Or.inl (List.drop_eq_nil_of_le (by omega))) h
      have h2 : (whole + 1) * Config.blockBytes ≤ n * Config.blockBytes := Nat.mul_le_mul_right _ hlt
      rw [Nat.add_mul, Nat.one_mul] at h2
      simp only [List.length_append, List.length_take, List.length_drop, length_padTo]
      omega

/-- A write cut off changes no byte outside its run. -/
theorem read_cutMedium_outside (m : Memory) (n block a : Nat) (new : List Byte) (f : List Byte → Bool)
    (h : a < block * Config.blockBytes ∨ block * Config.blockBytes + new.length ≤ a) :
    Memory.read (cutMedium m n block new f) a = Memory.read m a := by
  have hd : new.length / Config.blockBytes * Config.blockBytes ≤ new.length := Nat.div_mul_le_self _ _
  simp only [cutMedium]
  rw [Memory.read_writeBytes_outside]
  rw [length_cutRun (n := new.length / Config.blockBytes) _ _ _ _ _ (by simp [Memory.readBlocks]) hd
    (Nat.min_le_right _ _)]
  simp only [Memory.readBlocks, Memory.length_readBytes]
  omega

/-- The bytes outside a write in flight stand when it is cut off. -/
theorem read_cutWrite_outside (s : State) (a : Nat)
    (h : ∀ block new f, s.writeInFlight = some (block, new, f) →
      a < block * Config.blockBytes ∨ block * Config.blockBytes + new.length ≤ a) :
    Memory.read s.cutWrite.card.medium a = Memory.read s.card.medium a := by
  simp only [State.cutWrite]
  split
  · rfl
  · rename_i block new f hw
    exact read_cutMedium_outside _ _ _ _ _ _ (h block new f hw)

end Sys2Proof.Machine
end

