-- ==== Sys2Proof/Laws/Merge.lean ====
section
/-! SUPPORT. What a promotion asks of the parsed track (R20, R83 to R85). -/

namespace Sys2Proof.Machine

/-- Every condition of R83 holds of a track that is promoted, and every gap measured of it lies in its range of R4. -/
theorem promote_conditions {c : Capture} {mark : Option Field} {ps : List (Field × Field)} {t : Sectored}
    (h : promote c mark ps = some t) :
    ps ≠ [] ∧ ps.all (pairGood c.encoding) = true
      ∧ spreadSmall (gap2s c.encoding c.cells ps) = true ∧ spreadSmall (gap3s c.encoding c.cells ps) = true
      ∧ ps.length ≤ Config.maxSectors
      ∧ (gap2s c.encoding c.cells ps).all (gapIn · 1 60) = true
      ∧ (gap3s c.encoding c.cells ps).all (gapIn · 1 255) = true
      ∧ fitsRevolution t = true := by
  cases ps with
  | nil => cases h
  | cons p rest =>
    unfold promote at h
    simp only [Option.ite_none_right_eq_some, Option.some.injEq, Bool.and_eq_true, decide_eq_true_eq] at h
    obtain ⟨⟨⟨⟨⟨⟨⟨⟨⟨⟨good, spread2⟩, spread3⟩, few⟩, -⟩, -⟩, range2⟩, range3⟩, -⟩, fits⟩, rfl⟩ := h
    exact ⟨List.cons_ne_nil p rest, good, spread2, spread3, few, range2, range3, fits⟩

end Sys2Proof.Machine
end

