-- ==== Sys2Proof/Laws/React.lean ====
section
/-! SUPPORT. What the end of a command can change. `State.lasting` is what no rule of React.lean ever touches;
`State.stored` is what it touches only where a restart's discard or a waiting mount request falls due. The provers
cite `react_lasting` and `react_stored` and their projections in place of unfolding `react`. -/

namespace Sys2Proof.Machine

/-! ### The bundles -/

/-- The fields of one drive that last; the spindle but for its motor demand (`react_spindle`). -/
structure LastingDrive where
  spindle : Spindle
  cylinder : Nat
  motion : Motion
  lastDir : StepDir

/-- The fields that no rule at the end of a command changes, the spindles left out. -/
structure Lasting where
  powered : Bool
  lines : Lines
  settings : Settings
  guard : Bool
  a : LastingDrive
  b : LastingDrive
  releases : Nat
  recovery : Bool
  panelDrive : Drive
  lock : Bool
  pending : List Instr

/-- The lasting part of a drive. -/
def DriveUnit.lasting (u : DriveUnit) : LastingDrive :=
  { spindle := u.spindle, cylinder := u.cylinder, motion := u.motion, lastDir := u.lastDir }

/-- The lasting part of a state. -/
def State.lasting (s : State) : Lasting :=
  { powered := s.powered, lines := s.lines, settings := s.settings, guard := s.cable.guard, a := s.driveA.lasting
    b := s.driveB.lasting, releases := s.capture.releases, recovery := s.power.recovery, panelDrive := s.panel.drive
    lock := s.panel.lock, pending := s.pending }

/-- The fields of one drive that change only with a mount. -/
structure StoredDrive where
  media : Media
  mounted : Option Nat
  diskChange : Bool
  overlay : List OverlayEntry

/-- The stored part of a drive. -/
def DriveUnit.stored (u : DriveUnit) : StoredDrive :=
  { media := u.media, mounted := u.mounted, diskChange := u.diskChange, overlay := u.overlay }

/-- The fields that the end of a command changes only by a discard or a waiting mount request: mounts, slots, commit
queue, all of the card but its state, catalogue, volume record. -/
structure Stored where
  a : StoredDrive
  b : StoredDrive
  slots : Vector Slot 16
  commit : Commit
  card : Card
  catalogue : Vector (Option CatalogueEntry) 100
  record : Option VolumeRecord
  deferred : List MountRequest
  freeCount : Nat
  restart : Bool

/-- The stored part of a state. -/
def State.stored (s : State) : Stored :=
  { a := s.driveA.stored, b := s.driveB.stored, slots := s.cache.slots, commit := s.commit
    card := { s.card with state := .absent }, catalogue := s.volume.catalogue, record := s.volume.record
    deferred := s.volume.deferred, freeCount := s.freeCount, restart := s.power.job.isRestart }

/-! ### The lasting part -/

theorem foldl_lasting {α : Type} (f : State → α → State) (h : ∀ s x, (f s x).lasting = s.lasting) (l : List α)
    (s : State) : (l.foldl f s).lasting = s.lasting := by
  induction l generalizing s with
  | nil => rfl
  | cons x xs ih => rw [List.foldl_cons, ih, h]

@[simp] theorem State.lasting_latch (s : State) (a : Alert) : (s.latch a).lasting = s.lasting := rfl

@[simp] theorem State.lasting_latchIf (s : State) (c : Bool) (a : Alert) : (s.latchIf c a).lasting = s.lasting := by
  cases c <;> rfl

@[simp] theorem State.lasting_requestLoad (s : State) (k : Key) (d : Drive) : (s.requestLoad k d).lasting = s.lasting := by
  simp only [State.requestLoad]; split
  · rfl
  · split
    · split <;> rfl
    · rfl

@[simp] theorem State.lasting_requestWrite (s : State) (t : WriteTarget) : (s.requestWrite t).lasting = s.lasting := by
  simp only [State.requestWrite]; split <;> rfl

@[simp] theorem State.lasting_orphanCaptures (s : State) (hit : Capture → Bool) :
    (s.orphanCaptures hit).lasting = s.lasting := by
  have h := s.lasting_latchIf (s.capture.buf1.losesTo hit || s.capture.buf2.losesTo hit) .writeLost
  exact h

@[simp] theorem State.lasting_discardCapturing (s : State) : s.discardCapturing.lasting = s.lasting := by
  have h := s.lasting_latchIf (s.capture.buf1.isCapturing || s.capture.buf2.isCapturing) .writeLost
  exact h

@[simp] theorem State.lasting_setSlot (s : State) (i : Fin 16) (x : Slot) : (s.setSlot i x).lasting = s.lasting := rfl

@[simp] theorem State.lasting_free (s : State) (i : Fin 16) : (s.free i).lasting = s.lasting := rfl

@[simp] theorem State.lasting_withdraw (s : State) (i : Fin 16) : (s.withdraw i).lasting = s.lasting := by
  simp only [State.withdraw]; split <;> rfl

@[simp] theorem State.lasting_unmountSlot (s : State) (o : Bool) (i : Fin 16) :
    (s.unmountSlot o i).lasting = s.lasting := by
  simp only [State.unmountSlot]; split <;> split <;> simp

@[simp] theorem State.lasting_unmountSlots (s : State) (i : Nat) (o : Bool) :
    (s.unmountSlots i o).lasting = s.lasting :=
  foldl_lasting _ (fun s x => by split <;> simp) _ _

/-- A drive's record replaced by one with the same cylinder, motion and direction. -/
theorem State.lasting_setDrive (s : State) (d : Drive) (u : DriveUnit) (h : u.lasting = (s.drive d).lasting) :
    (s.setDrive d u).lasting = s.lasting := by
  cases d <;> simp only [State.lasting, State.setDrive] <;> rw [h] <;> rfl

@[simp] theorem State.lasting_unmountImage (s : State) (d : Drive) (i : Nat) :
    (s.unmountImage d i).lasting = s.lasting := by
  simp only [State.unmountImage]
  rw [State.lasting_setDrive]
  · simp; rfl
  · rfl

@[simp] theorem State.lasting_unmountDrive (s : State) (d : Drive) : (s.unmountDrive d).lasting = s.lasting := by
  simp only [State.unmountDrive]; split <;> simp

@[simp] theorem State.lasting_doMount (s : State) (d : Drive) (i : Nat) : (s.doMount d i).lasting = s.lasting := by
  simp only [State.doMount, State.lasting_requestWrite]
  rw [State.lasting_setDrive]
  · simp
  · rfl

@[simp] theorem State.lasting_doUnmount (s : State) (d : Drive) : (s.doUnmount d).lasting = s.lasting := by
  simp [State.doUnmount]

@[simp] theorem State.lasting_decideMount (s : State) (m : MountRequest) : (s.decideMount m).lasting = s.lasting := by
  simp only [State.decideMount]; split
  · simp
  · split
    · simp
    · split <;> simp

@[simp] theorem State.lasting_decideDeferred (s : State) : s.decideDeferred.lasting = s.lasting := by
  simp only [State.decideDeferred]; split
  · rfl
  · exact (foldl_lasting _ State.lasting_decideMount _ _)

@[simp] theorem State.lasting_wakeCard (s : State) : s.wakeCard.lasting = s.lasting := by
  simp only [State.wakeCard]; split <;> rfl

@[simp] theorem State.lasting_returnToRun (s : State) : s.returnToRun.lasting = s.lasting := by
  simp only [State.returnToRun]; split <;> rfl

@[simp] theorem State.lasting_activity (s : State) : s.activity.lasting = s.lasting := by
  simp only [State.activity]; split <;> first | rfl | simp

@[simp] theorem State.lasting_cutWrite (s : State) : s.cutWrite.lasting = s.lasting := by
  simp only [State.cutWrite]; split <;> rfl

@[simp] theorem State.lasting_removalEffects (s : State) : s.removalEffects.lasting = s.lasting := by
  have h := (s.latchIf s.anyUnwritten .dirtyLost).lasting_orphanCaptures fun _ => true
  rw [State.lasting_latchIf] at h
  exact h

@[simp] theorem State.lasting_discard (s : State) : s.discard.lasting = s.lasting := by
  have h := s.cutWrite.lasting_removalEffects
  rw [State.lasting_cutWrite] at h
  exact h

@[simp] theorem State.lasting_afterClose (s : State) : s.afterClose.lasting = s.lasting := by
  simp only [State.afterClose]; split <;> first | rfl | simp

@[simp] theorem State.lasting_closeVolume (s : State) : s.closeVolume.lasting = s.lasting := by
  simp only [State.closeVolume]; split
  · simp
  · exact s.lasting_requestWrite .clean

@[simp] theorem State.lasting_followActivity (s : State) : s.followActivity.lasting = s.lasting := by
  simp only [State.followActivity]; split <;> simp

@[simp] theorem State.lasting_followFaultC (s0 s : State) : (State.followFaultC s0 s).lasting = s.lasting := by
  simp [State.followFaultC]

@[simp] theorem State.lasting_followFaultD (s : State) : s.followFaultD.lasting = s.lasting := by
  simp only [State.followFaultD]; split <;> simp

@[simp] theorem State.lasting_dropBarredWrite (s : State) : s.dropBarredWrite.lasting = s.lasting := by
  simp only [State.dropBarredWrite]; split <;> rfl

@[simp] theorem State.lasting_requestMarker (s : State) : s.requestMarker.lasting = s.lasting := by
  simp only [State.requestMarker]; split <;> simp

@[simp] theorem State.lasting_followDrainEnd (s : State) : s.followDrainEnd.lasting = s.lasting := by
  simp only [State.followDrainEnd]; split
  · split
    · simp; rfl
    · rfl
  · rfl

@[simp] theorem State.lasting_followClose (s : State) : s.followClose.lasting = s.lasting := by
  simp only [State.followClose]; split <;> simp

@[simp] theorem State.lasting_followSleep (s : State) : s.followSleep.lasting = s.lasting := by
  simp only [State.followSleep]; split <;> rfl

@[simp] theorem State.lasting_requestFor (s : State) (b : BufferId) : (s.requestFor b).lasting = s.lasting := by
  simp only [State.requestFor]; split
  · split <;> simp
  · rfl

@[simp] theorem State.lasting_dropPrefetch (s : State) : s.dropPrefetch.lasting = s.lasting := by
  simp only [State.dropPrefetch]; split <;> rfl

@[simp] theorem State.lasting_followGoverning (s : State) : s.followGoverning.lasting = s.lasting := by
  simp only [State.followGoverning]; split
  · rfl
  · split <;> rfl

@[simp] theorem State.lasting_armHold (s : State) : s.armHold.lasting = s.lasting := rfl

@[simp] theorem State.lasting_joinHeld (s : State) (d : Drive) (k : Key) : (s.joinHeld d k).lasting = s.lasting := by
  cases d <;> rfl

@[simp] theorem State.lasting_followHold (s : State) : s.followHold.lasting = s.lasting := by
  simp only [State.followHold]; split
  · split
    · exact s.lasting_joinHeld _ _
    · simp
  · simp

@[simp] theorem State.lasting_followServing (s0 s : State) : (State.followServing s0 s).lasting = s.lasting := by
  simp only [State.followServing]; split
  · rfl
  · split <;> rfl

@[simp] theorem State.lasting_followPages (s0 s : State) : (State.followPages s0 s).lasting = s.lasting := by
  simp only [State.followPages]; split <;> split <;> rfl

/-- The end of a command changes no lasting field but the spindles. -/
theorem react_lasting (s0 s : State) : (react s0 s).lasting = s.followActivity.followSpindles.lasting := by
  simp [react, State.followCable, State.followCard, State.followTrack, State.followDrain, State.followCaptures]

/-- A lasting field that is none of a drive's. -/
theorem react_field {α : Type} (f : Lasting → α)
    (hf : ∀ x : State, f x.followSpindles.lasting = f x.lasting) (s0 s : State) :
    f (react s0 s).lasting = f s.lasting := by
  rw [react_lasting, hf, State.lasting_followActivity]

@[simp] theorem react_powered (s0 s : State) : (react s0 s).powered = s.powered :=
  react_field Lasting.powered (fun _ => rfl) s0 s

@[simp] theorem react_lines (s0 s : State) : (react s0 s).lines = s.lines :=
  react_field Lasting.lines (fun _ => rfl) s0 s

@[simp] theorem react_settings (s0 s : State) : (react s0 s).settings = s.settings :=
  react_field Lasting.settings (fun _ => rfl) s0 s

@[simp] theorem react_guard (s0 s : State) : (react s0 s).cable.guard = s.cable.guard :=
  react_field Lasting.guard (fun _ => rfl) s0 s

@[simp] theorem react_cylinder (s0 s : State) (d : Drive) : ((react s0 s).drive d).cylinder = (s.drive d).cylinder := by
  cases d
  · exact react_field (fun x => x.a.cylinder) (fun _ => rfl) s0 s
  · exact react_field (fun x => x.b.cylinder) (fun _ => rfl) s0 s

@[simp] theorem react_motion (s0 s : State) (d : Drive) : ((react s0 s).drive d).motion = (s.drive d).motion := by
  cases d
  · exact react_field (fun x => x.a.motion) (fun _ => rfl) s0 s
  · exact react_field (fun x => x.b.motion) (fun _ => rfl) s0 s

@[simp] theorem react_lastDir (s0 s : State) (d : Drive) : ((react s0 s).drive d).lastDir = (s.drive d).lastDir := by
  cases d
  · exact react_field (fun x => x.a.lastDir) (fun _ => rfl) s0 s
  · exact react_field (fun x => x.b.lastDir) (fun _ => rfl) s0 s

@[simp] theorem react_releases (s0 s : State) : (react s0 s).capture.releases = s.capture.releases :=
  react_field Lasting.releases (fun _ => rfl) s0 s

@[simp] theorem react_recovery (s0 s : State) : (react s0 s).power.recovery = s.power.recovery :=
  react_field Lasting.recovery (fun _ => rfl) s0 s

@[simp] theorem react_panelDrive (s0 s : State) : (react s0 s).panel.drive = s.panel.drive :=
  react_field Lasting.panelDrive (fun _ => rfl) s0 s

@[simp] theorem react_lock (s0 s : State) : (react s0 s).panel.lock = s.panel.lock :=
  react_field Lasting.lock (fun _ => rfl) s0 s

@[simp] theorem react_pending (s0 s : State) : (react s0 s).pending = s.pending :=
  react_field Lasting.pending (fun _ => rfl) s0 s

/-! ### Spindles (R30, R31) -/

/-- Motor demand is read off the lines and the settings (R26). -/
theorem State.motorDemand_congr {s t : State} (hl : t.lines = s.lines) (hs : t.settings = s.settings) (d : Drive) :
    t.motorDemand d = s.motorDemand d := by
  simp only [State.motorDemand, State.lineAsserted, hl, hs]

/-- Selection is read off the lines and the settings (R25). -/
theorem State.selected_congr {s t : State} (hl : t.lines = s.lines) (hs : t.settings = s.settings) :
    t.selected = s.selected := by
  have h : ∀ d, t.lineAsserted d = s.lineAsserted d := fun d => by simp only [State.lineAsserted, hl, hs]
  simp only [State.selected, h]

@[simp] theorem react_motorDemand (s0 s : State) (d : Drive) : (react s0 s).motorDemand d = s.motorDemand d :=
  State.motorDemand_congr (react_lines s0 s) (react_settings s0 s) d

@[simp] theorem react_selected (s0 s : State) : (react s0 s).selected = s.selected :=
  State.selected_congr (react_lines s0 s) (react_settings s0 s)

/-- Cable activity never enters or leaves EMERGENCY and SPENT. -/
@[simp] theorem State.isFailing_followActivity (s : State) : s.followActivity.isFailing = s.isFailing := by
  simp only [State.followActivity, State.activity, State.returnToRun, State.wakeCard, State.isFailing]
  split
  · split
    · simp_all
    · split <;> simp_all
    · split <;> split <;> simp_all
    · rfl
  · rfl

/-- Each spindle at the end of a command (R30, R31). -/
theorem react_spindle (s0 s : State) (d : Drive) :
    ((react s0 s).drive d).spindle
      = spindleUnder s.isFailing (s.motorDemand d) s.settings.spinUpMs (s.drive d).spindle := by
  have ha := s.lasting_followActivity
  have hl : s.followActivity.lines = s.lines := congrArg Lasting.lines ha
  have hs : s.followActivity.settings = s.settings := congrArg Lasting.settings ha
  have hd := State.motorDemand_congr hl hs d
  cases d
  · have h := congrArg (fun x => x.a.spindle) (react_lasting s0 s)
    have hx : s.followActivity.driveA.spindle = s.driveA.spindle := congrArg (fun x => x.a.spindle) ha
    refine h.trans ?_
    show spindleUnder s.followActivity.isFailing (s.followActivity.motorDemand .a)
      s.followActivity.settings.spinUpMs s.followActivity.driveA.spindle = _
    rw [State.isFailing_followActivity, hd, hs, hx]; rfl
  · have h := congrArg (fun x => x.b.spindle) (react_lasting s0 s)
    have hx : s.followActivity.driveB.spindle = s.driveB.spindle := congrArg (fun x => x.b.spindle) ha
    refine h.trans ?_
    show spindleUnder s.followActivity.isFailing (s.followActivity.motorDemand .b)
      s.followActivity.settings.spinUpMs s.followActivity.driveB.spindle = _
    rw [State.isFailing_followActivity, hd, hs, hx]; rfl

/-! ### The stored part -/

@[simp] theorem State.stored_latch (s : State) (a : Alert) : (s.latch a).stored = s.stored := rfl

@[simp] theorem State.stored_latchIf (s : State) (c : Bool) (a : Alert) : (s.latchIf c a).stored = s.stored := by
  cases c <;> rfl

@[simp] theorem State.stored_requestLoad (s : State) (k : Key) (d : Drive) : (s.requestLoad k d).stored = s.stored := by
  simp only [State.requestLoad]; split
  · rfl
  · split
    · split <;> rfl
    · rfl

@[simp] theorem State.stored_requestWrite (s : State) (t : WriteTarget) : (s.requestWrite t).stored = s.stored := by
  simp only [State.requestWrite]; split <;> rfl

@[simp] theorem State.stored_discardCapturing (s : State) : s.discardCapturing.stored = s.stored := by
  have h := s.stored_latchIf (s.capture.buf1.isCapturing || s.capture.buf2.isCapturing) .writeLost
  exact h

@[simp] theorem State.stored_wakeCard (s : State) : s.wakeCard.stored = s.stored := by
  simp only [State.wakeCard]; split <;> rfl

/-- No restart is in progress. -/
theorem State.stored_of_job (s : State) (j : Job) (st : PowerState) (n : Nat) (h : j.isRestart = s.power.job.isRestart) :
    ({ s with power.state := st, power.idle := n, power.job := j } : State).stored = s.stored := by
  simp only [State.stored]; rw [h]

theorem State.stored_returnToRun (s : State) (h : s.power.job.isRestart = false) :
    s.returnToRun.stored = s.stored := by
  simp only [State.returnToRun]; split
  · exact s.stored_of_job .none .run 0 (by rw [h]; rfl)
  · rfl

theorem State.stored_activity (s : State) (h : s.power.job.isRestart = false) : s.activity.stored = s.stored := by
  simp only [State.activity]; split <;> first | rfl | simp [State.stored_returnToRun s h]

theorem State.stored_followActivity (s : State) (h : s.power.job.isRestart = false) :
    s.followActivity.stored = s.stored := by
  simp only [State.followActivity]; split
  · exact s.stored_activity h
  · rfl

@[simp] theorem State.stored_followSpindles (s : State) : s.followSpindles.stored = s.stored := rfl

@[simp] theorem State.stored_followFaultC (s0 s : State) : (State.followFaultC s0 s).stored = s.stored := by
  simp [State.followFaultC]

@[simp] theorem State.stored_followFaultD (s : State) : s.followFaultD.stored = s.stored := by
  simp only [State.followFaultD]; split <;> simp

theorem State.stored_decideDeferred (s : State) (h : s.volume.deferred = []) : s.decideDeferred.stored = s.stored := by
  simp only [State.decideDeferred]; split
  · rfl
  · rw [h]; simp only [List.foldl_nil, State.stored]; rw [h]

@[simp] theorem State.stored_dropBarredWrite (s : State) : s.dropBarredWrite.stored = s.stored := by
  simp only [State.dropBarredWrite]; split <;> rfl

@[simp] theorem State.stored_requestMarker (s : State) : s.requestMarker.stored = s.stored := by
  simp only [State.requestMarker]; split <;> simp

theorem State.stored_afterClose (s : State) (h : s.power.job.isRestart = false) : s.afterClose.stored = s.stored := by
  simp only [State.afterClose]; split
  · rename_i x hj; exact s.stored_of_job .idleSleep s.power.state s.power.idle (by rw [h]; rfl)
  · exact s.stored_of_job .none .spent s.power.idle (by rw [h]; rfl)
  · rename_i x hj; rw [hj] at h; cases h
  · rfl

theorem Job.isRestart_closing (j : Job) : j.closing.isRestart = j.isRestart := by cases j <;> rfl

theorem State.stored_closeVolume (s : State) (h : s.power.job.isRestart = false) :
    s.closeVolume.stored = s.stored := by
  simp only [State.closeVolume]; split
  · exact s.stored_afterClose h
  · have h1 := State.stored_of_job (s.requestWrite .clean) s.power.job.closing (s.requestWrite .clean).power.state
      (s.requestWrite .clean).power.idle (by rw [Job.isRestart_closing]; simp)
    exact h1.trans (s.stored_requestWrite .clean)

theorem State.stored_followDrainEnd (s : State) (h : s.power.job.isRestart = false) :
    s.followDrainEnd.stored = s.stored := by
  simp only [State.followDrainEnd]; split
  · split
    · exact State.stored_closeVolume _ h
    · rfl
  · rfl

theorem State.stored_followClose (s : State) (h : s.power.job.isRestart = false) : s.followClose.stored = s.stored := by
  simp only [State.followClose]; split
  · exact s.stored_afterClose h
  · rfl

@[simp] theorem State.stored_followSleep (s : State) : s.followSleep.stored = s.stored := by
  simp only [State.followSleep]; split
  · rename_i h; simp only [State.stored]; rw [h.1]; rfl
  · rfl

@[simp] theorem State.stored_requestFor (s : State) (b : BufferId) : (s.requestFor b).stored = s.stored := by
  simp only [State.requestFor]; split
  · split <;> simp
  · rfl

@[simp] theorem State.stored_dropPrefetch (s : State) : s.dropPrefetch.stored = s.stored := by
  simp only [State.dropPrefetch]; split <;> rfl

@[simp] theorem State.stored_followGoverning (s : State) : s.followGoverning.stored = s.stored := by
  simp only [State.followGoverning]; split
  · rfl
  · split <;> rfl

@[simp] theorem State.stored_joinHeld (s : State) (d : Drive) (k : Key) : (s.joinHeld d k).stored = s.stored := by
  cases d <;> rfl

@[simp] theorem State.stored_followHold (s : State) : s.followHold.stored = s.stored := by
  simp only [State.followHold]; split
  · split
    · exact s.stored_joinHeld _ _
    · rfl
  · rfl

@[simp] theorem State.stored_followServing (s0 s : State) : (State.followServing s0 s).stored = s.stored := by
  simp only [State.followServing]; split
  · rfl
  · split <;> rfl

@[simp] theorem State.stored_followPages (s0 s : State) : (State.followPages s0 s).stored = s.stored := by
  simp only [State.followPages]; split <;> split <;> rfl

/-- Restart and waiting mounts read off the stored part. -/
theorem State.restart_of_stored {s t : State} (h : t.stored = s.stored) :
    t.power.job.isRestart = s.power.job.isRestart := congrArg Stored.restart h

theorem State.deferred_of_stored {s t : State} (h : t.stored = s.stored) : t.volume.deferred = s.volume.deferred :=
  congrArg Stored.deferred h

theorem State.stored_followCable (s0 s : State) (h : s.power.job.isRestart = false) :
    (State.followCable s0 s).stored = s.stored := by
  simp [State.followCable, State.stored_followActivity s h]

theorem State.stored_followDrain (s : State) (h : s.power.job.isRestart = false) :
    s.followDrain.stored = s.stored := by
  have h1 : s.dropBarredWrite.requestMarker.stored = s.stored := by simp
  have h2 := State.stored_followDrainEnd _ ((State.restart_of_stored h1).trans h)
  have h3 := State.stored_followClose _ ((State.restart_of_stored (h2.trans h1)).trans h)
  simp only [State.followDrain, State.stored_followSleep]
  exact h3.trans (h2.trans h1)

theorem State.stored_followCard (s : State) (h : s.power.job.isRestart = false) (hd : s.volume.deferred = []) :
    s.followCard.stored = s.stored := by
  have h1 := s.stored_decideDeferred hd
  have h2 := State.stored_followDrain _ ((State.restart_of_stored h1).trans h)
  have h3 := State.stored_decideDeferred _ ((State.deferred_of_stored (h2.trans h1)).trans hd)
  simp only [State.followCard, State.followCaptures, State.stored_dropPrefetch, State.stored_requestFor]
  exact h3.trans (h2.trans h1)

/-- With no restart in progress and no mount request waiting, the end of a command changes no stored field. -/
theorem react_stored (s0 s : State) (h : s.power.job.isRestart = false) (hd : s.volume.deferred = []) :
    (react s0 s).stored = s.stored := by
  have h1 := State.stored_followCable s0 s h
  have h2 := State.stored_followCard _ ((State.restart_of_stored h1).trans h) ((State.deferred_of_stored h1).trans hd)
  simp only [react, State.followTrack, State.stored_followPages, State.stored_followServing, State.stored_followHold,
    State.stored_followGoverning]
  exact h2.trans h1

section Stored

variable (s0 s : State) (h : s.power.job.isRestart = false) (hd : s.volume.deferred = [])
include h hd

theorem react_slots : (react s0 s).cache.slots = s.cache.slots := congrArg Stored.slots (react_stored s0 s h hd)

theorem react_slot (i : Fin 16) : (react s0 s).slot i = s.slot i := by
  simp only [State.slot, react_slots s0 s h hd]

theorem react_commit : (react s0 s).commit = s.commit := congrArg Stored.commit (react_stored s0 s h hd)

theorem react_holder : (react s0 s).card.holder = s.card.holder := congrArg (fun x => x.card.holder) (react_stored s0 s h hd)

theorem react_buffer : (react s0 s).card.buffer = s.card.buffer := congrArg (fun x => x.card.buffer) (react_stored s0 s h hd)

theorem react_writeLocked : (react s0 s).card.writeLocked = s.card.writeLocked :=
  congrArg (fun x => x.card.writeLocked) (react_stored s0 s h hd)

theorem react_writeFault : (react s0 s).card.writeFault = s.card.writeFault :=
  congrArg (fun x => x.card.writeFault) (react_stored s0 s h hd)

theorem react_capacity : (react s0 s).card.capacity = s.card.capacity := congrArg (fun x => x.card.capacity) (react_stored s0 s h hd)

theorem react_header : (react s0 s).card.header = s.card.header := congrArg (fun x => x.card.header) (react_stored s0 s h hd)

theorem react_scratchA : (react s0 s).card.scratchA = s.card.scratchA := congrArg (fun x => x.card.scratchA) (react_stored s0 s h hd)

theorem react_scratchB : (react s0 s).card.scratchB = s.card.scratchB := congrArg (fun x => x.card.scratchB) (react_stored s0 s h hd)

theorem react_medium : (react s0 s).card.medium = s.card.medium := congrArg (fun x => x.card.medium) (react_stored s0 s h hd)

theorem react_catalogue : (react s0 s).volume.catalogue = s.volume.catalogue :=
  congrArg Stored.catalogue (react_stored s0 s h hd)

theorem react_record : (react s0 s).volume.record = s.volume.record := congrArg Stored.record (react_stored s0 s h hd)

theorem react_freeCount : (react s0 s).freeCount = s.freeCount := congrArg Stored.freeCount (react_stored s0 s h hd)

theorem react_drive_stored (d : Drive) : ((react s0 s).drive d).stored = (s.drive d).stored := by
  cases d
  · exact congrArg Stored.a (react_stored s0 s h hd)
  · exact congrArg Stored.b (react_stored s0 s h hd)

theorem react_media (d : Drive) : ((react s0 s).drive d).media = (s.drive d).media :=
  congrArg StoredDrive.media (react_drive_stored s0 s h hd d)

theorem react_mounted (d : Drive) : ((react s0 s).drive d).mounted = (s.drive d).mounted :=
  congrArg StoredDrive.mounted (react_drive_stored s0 s h hd d)

theorem react_diskChange (d : Drive) : ((react s0 s).drive d).diskChange = (s.drive d).diskChange :=
  congrArg StoredDrive.diskChange (react_drive_stored s0 s h hd d)

theorem react_overlay (d : Drive) : ((react s0 s).drive d).overlay = (s.drive d).overlay :=
  congrArg StoredDrive.overlay (react_drive_stored s0 s h hd d)

end Stored

end Sys2Proof.Machine
end

