-- ==== Sys2Proof/Tests/Slice0.lean ====
section
/-! SUPPORT. The model's own tests: ill-formed commands are refused, small worked cases of the spec, and for every
statement with hypotheses a concrete state and operands that meet them. -/

namespace Sys2Proof.Machine

-- One theorem after another: their kernel evaluations side by side need more threads than the check allows.
set_option Elab.async false

/-! ### Well-formed commands -/

theorem test_wf_refuses_card_not_canonical :
    (Instr.cardDetectAssert { locked := false, bytes := [(5, 1#8), (4, 1#8)] }).wf = false := by decide

theorem test_wf_refuses_card_listing_zero :
    (Instr.cardDetectAssert { locked := false, bytes := [(5, 0#8)] }).wf = false := by decide

theorem test_wf_refuses_wide_block_size :
    (Instr.identificationExchangeEnd (.answered (2 ^ 32) 1000)).wf = false := by decide

theorem test_wf_refuses_wide_capacity :
    (Instr.identificationExchangeEnd (.answered 512 (2 ^ 32))).wf = false := by decide

theorem test_wf_refuses_short_block0 : (Instr.reinitAttemptEnd (.block0Read (some [1#8]))).wf = false := by decide

theorem test_wf_refuses_five_levels : (Instr.cellTime [true, false, true, false, true]).wf = false := by decide

theorem test_wf_accepts_the_rest :
    ([Instr.powerOn, .step true, .cardDetectAssert { locked := true, bytes := [(4, 1#8), (5, 1#8)] },
      .identificationExchangeEnd (.answered 512 100000), .reinitAttemptEnd (.block0Read none),
      .cellTime [true]].all Instr.wf) = true := by decide

/-! ### States to test on -/

/-- A DIRECT image of 80 cylinders and two heads, 300 rpm, 500 kcells/s, MFM. -/
def testEntry : CatalogueEntry where
  cylinders := 80
  heads := 2
  rpm := .r300
  rate := .k500
  encoding := .mfm
  policy := .direct
  base := 100

/-- The same image under OVERLAY. -/
def testOverlay : CatalogueEntry := { testEntry with policy := .overlay, base := 30000 }

/-- Card READY with two images, an OPEN volume, the guard over. -/
def testReady : State :=
  { State.reset with
    cable.guard := false
    card := { State.reset.card with
      state := .ready, capacity := some 200000, scratchA := some 100000, scratchB := some 130000 }
    volume := { State.reset.volume with
      catalogue := ((Vector.replicate 100 none).set 0 (some testEntry)).set 1 (some testOverlay)
      record := some { state := .open, slotA := some 0, slotB := none, count := 0 } } }

/-- Drive A selected, PRESENT, AT_SPEED and SETTLED with image 0; nothing loaded, the hold ARMED. -/
def testBase : State :=
  { testReady with
    lines := { Lines.released with sel0 := true, mot0 := true }
    driveA := { DriveUnit.powerOn with media := .present, spindle := .atSpeed, mounted := some 0 }
    rotation.hold := .armed }

/-- The key of drive A's head in `testBase`. -/
def testKey : Key := { image := 0, cylinder := 0, head := 0 }

/-- A small SECTORED record. -/
def testSectored : Sectored where
  encoding := .mfm
  rate := .k500
  cells := 100000
  gap4a := 80
  gap1 := some 50
  gap2 := 22
  gap3 := 54
  sectors := [{ c := 0, h := 0, r := 1, n := 0, mark := .normal, idCrcBad := false, dataCrcBad := false
                data := some (List.replicate 128 0x11#8) }]

/-- A slot that holds a record for a key. -/
def testSlot (st : SlotState) (k : Key) : Slot :=
  { Slot.free with
    state := st, key := some k, record := some (.sectored testSectored), layout := some (layoutTable testSectored)
    origin := .at .image .p0 3 }

/-- A LOADING slot. -/
def testLoading (k : Key) : Slot :=
  { Slot.free with
    state := .loading, key := some k, origin := .unknown
    context := some { kind := .demand, drive := .a, abandoned := false } }

/-- `testBase` with slot 0 holding this, in the recency order. -/
def testWith (x : Slot) : State := { testBase.setSlot 0 x with cache.recency := [0] }

/-- `testBase` with slot 0 DIRTY and queued. -/
def testDirty : State := { testWith (testSlot .dirty testKey) with commit.queue := [0], rotation.hold := .none }

/-- A load of slot 0 at a stage. -/
def testLoad (st : LoadStage) (abort : Bool) : State :=
  { testWith (testLoading testKey) with
    card.holder := .loader { slot := 0, area := .image, base := 100, abort := abort, stage := st } }

/-- A flush of slot 0 at a stage, with its attempts. -/
def testFlush (slot : SlotState) (st : FlushStage) (attempts : Nat) : State :=
  { testWith { testSlot slot testKey with attempts := attempts } with
    rotation.hold := .none
    card.holder := .flusher { slot := 0, key := testKey, area := .image, drive := none, base := 100, stage := st }
    card.buffer := some (serialise (.sectored testSectored) 0 0 0) }

/-- A capture begun in `testBase`. -/
def testCapture : Capture := testBase.newCapture .a testKey

/-- The capture released. -/
def testReleased : Released := { capture := testCapture, endPos := 5, indexCrossed := false, order := 1 }

/-- `testBase` with an admitted assertion being captured. -/
def testWriting : State :=
  { testBase with
    lines.wgate := true
    cable.admitted := some { drive := .a, buffer := some .one }
    capture.buf1 := .capturing testCapture
    rotation.hold := .none }

/-- What can be decided of `State.followed`, the hold state aside. -/
def followedBut (s : State) : Bool :=
  (decide (s.driveA.spindle = .stopped) == (s.isFailing || !s.motorDemand .a))
    && (decide (s.driveB.spindle = .stopped) == (s.isFailing || !s.motorDemand .b))
    && (s.governing.all fun g => decide (g = (s.rotation.cells, s.rotation.rate)))
    && (s.cable.admitted.all fun a => decide (s.selected = some a.drive))
    && (!decide (s.panel.page = .normal) || s.shownLatch.isNone)
    && (!decide (s.panel.page = .alert) || s.shownLatch.isSome)
    && (!s.writesBarred || s.volume.pendingWrite.isNone)
    && (decide (s.card.state = .waking) || s.volume.deferred.isEmpty)

/-- Whether the hold state agrees with the drives. -/
def holdOk (s : State) : Bool :=
  match s.rotation.hold with
  | .held k d _ =>
    decide (s.selected = some d) && decide (s.servedKey = some k) && (s.drive d).qualifies && !s.isKeyResident k
      && (s.drive d).heldKeys.contains k
  | .armed => s.armable
  | .none => !s.armable

theorem followed_of (s : State) (h : (followedBut s && holdOk s) = true) : s.followed := by
  simp only [followedBut, Bool.and_eq_true, beq_iff_eq] at h
  obtain ⟨⟨⟨⟨⟨⟨⟨⟨ha, hb⟩, hg⟩, had⟩, hn⟩, hal⟩, hw⟩, hd⟩, hh⟩ := h
  refine ⟨fun d => ?_, fun g hgov => ?_, ?_, fun a e => ?_, ⟨fun e => ?_, fun e => ?_⟩, fun e => ?_, fun e => ?_⟩
  · rw [Bool.eq_iff_iff] at ha hb
    cases d
    · simpa [State.drive] using ha
    · simpa [State.drive] using hb
  · simp_all
  · simp only [holdOk] at hh
    simp only [State.holdFollows]
    split <;> rename_i he <;> rw [he] at hh <;> simp_all
  · simp_all
  · simp_all
  · simp_all [Option.isSome_iff_ne_none]
  · simp_all
  · simp_all

theorem rotationLawful_of (s : State)
    (h : (decide (s.rotation.position < s.rotation.cells) && (slotIds.all fun i => (s.slot i).record.all Record.turns)
      && s.capture.buf1.turns && s.capture.buf2.turns) = true) : s.rotationLawful := by
  simp only [Bool.and_eq_true, decide_eq_true_eq] at h
  refine ⟨h.1.1.1, fun i r hr => ?_, h.1.2, h.2⟩
  have hm : ∀ i, i ∈ slotIds := by decide
  have := List.all_eq_true.mp h.1.1.2 i (hm i)
  simpa [hr] using this

/-! ### Hypotheses that are met: steps, the supply -/

theorem test_hyp_StepRunsFrontCommand :
    ({ testBase with pending := [.cardSleep] } : State).pending = .cardSleep :: [] ∧ testBase.pending = [] := by
  decide

theorem test_hyp_PowerComesAndGoes :
    testBase.lines.pfw = false ∧ ({ testBase with lines.pfw := true } : State).lines.pfw = true
      ∧ testBase.powered = true ∧ ({ testBase with powered := false } : State).powered = false
      ∧ testBase.writeInFlight = none := by
  decide +kernel

theorem test_hyp_PfwAssertEntersEmergency :
    (testBase.steady ∧ testBase.lines.pfw = false ∧ testBase.isFailing = false)
      ∧ ((testLoad (.probe0 1) false).steady ∧ (testLoad (.probe0 1) false).lines.pfw = false
        ∧ (testLoad (.probe0 1) false).isFailing = false ∧ (testLoad (.probe0 1) false).card.holder.isLoader = true)
      ∧ ((testFlush .writing (.write .p1 4) 1).steady ∧ (testFlush .writing (.write .p1 4) 1).isFailing = false
        ∧ (testFlush .writing (.write .p1 4) 1).card.holder.isFlusher = true) := by
  decide +kernel

/-- `testReady` in EMERGENCY, its drain in progress, and in SPENT. -/
def testEmergency : State := { testReady with power.state := .emergency, power.job := .emergency .draining }

/-- `testReady` in SPENT. -/
def testSpent : State := { testReady with power.state := .spent }

theorem test_hyp_RecoveryReturnsToRun :
    (testEmergency.powered = true ∧ testEmergency.isFailing = true ∧ testEmergency.jobFollows = true
      ∧ testEmergency.lines.pfw = false)
    ∧ (({ testSpent with lines.pfw := true } : State).powered = true
      ∧ ({ testSpent with lines.pfw := true } : State).isFailing = true
      ∧ ({ testSpent with lines.pfw := true } : State).jobFollows = true)
    ∧ (({ testSpent with power.recovery := true } : State).steady
      ∧ ({ testSpent with power.recovery := true } : State).isFailing = true) := by
  decide +kernel

/-- `testBase` in SPENT with the recovery timer running and head 1's key of drive A asked for. -/
def testRecovering : State :=
  { testBase with
    power.state := .spent, power.recovery := true, driveA.spindle := .stopped
    cache.loads := [{ key := { testKey with head := 1 }, kind := .demand, drive := .a }] }

theorem test_hyp_RecoveryRequestsCylinder :
    (testRecovering.steady ∧ testRecovering.isFailing = true ∧ testRecovering.power.recovery = true
      ∧ (testRecovering.drive .a).media = .present ∧ (testRecovering.drive .a).motion = .settled
      ∧ testKey ∈ testRecovering.driveKeys .a ∧ testRecovering.isOutside testKey = false
      ∧ testRecovering.isCached testKey = false)
    ∧ testRecovering.loadsLawful ∧ DemandsAsked testRecovering :=
  ⟨by decide +kernel, ⟨by decide, by decide, by decide⟩, fun x hx _ => Or.inl ⟨.a, by
    rw [List.mem_singleton.mp hx]; decide +kernel⟩⟩

theorem test_hyp_IdleCounterAdvances :
    (testReady.steady ∧ testReady.power.state = .run ∧ testReady.jobFollows = true ∧ testReady.activeLine = false
      ∧ nextIdle testReady.power.idle < testReady.settings.idleSecs)
    ∧ (({ testReady with power.idle := 7 } : State).steady ∧ testReady.settings.idleSecs ≤ nextIdle 7)
    ∧ (({ testReady with power.idle := 60, settings.idleSecs := 0 } : State).steady ∧ nextIdle 60 = 60) := by
  decide +kernel

/-! ### Hypotheses that are met: the cable and the drives -/

theorem test_hyp_MotorDemandFollowsSource :
    testBase.settings.motorSource .a = .mot0 ∧ testBase.settings.motorSource .b = .mot1
      ∧ ({ testBase with settings.motA := .select } : State).settings.motorSource .a = .select
      ∧ (({ testBase with settings.motB := .select } : State).driveBOff = true
        ∧ ({ testBase with settings.motB := .select } : State).settings.motB = .select) := by
  decide

/-- `testBase` with drive B on SEL1. -/
def testTwo : State := { testBase with settings.selB := some 1 }

theorem test_hyp_LineChangesTakeEffect :
    testTwo.steady ∧ testTwo.faultC = false
      ∧ ({ testTwo with lines.sel1 := true } : State).faultC = true
      ∧ testBase.motorDemand .a = true ∧ testBase.isFailing = false ∧ testBase.driveA.spindle ≠ .stopped
      ∧ testReady.driveA.spindle = .stopped ∧ testWriting.steady
      ∧ (testWriting.cable.admitted = some { drive := .a, buffer := some .one }
        ∧ ({ testWriting with lines.sel0 := false } : State).selected ≠ some .a) := by
  decide +kernel

theorem test_hyp_StepMovesSelectedDrive :
    testBase.steady ∧ testBase.selected = some .a
      ∧ ({ testBase with driveA.cylinder := 84 } : State).selected = some .a
      ∧ testWriting.steady ∧ testWriting.selected = some .a := by
  decide +kernel

theorem test_hyp_StepIsActivityWhoeverIsSelected :
    (testReady.steady ∧ testReady.selected = none ∧ testReady.jobFollows = true ∧ testReady.isFailing = false)
    ∧ (({ testReady with power.state := .quiet, card.state := .asleep } : State).steady
      ∧ ({ testReady with power.state := .quiet, card.state := .asleep } : State).jobFollows = true)
    ∧ (({ testTwo with lines.sel1 := true } : State).selected = none) := by
  decide +kernel

theorem test_hyp_StepOrSideEndsAdmittedWrite :
    testWriting.powered = true ∧ testWriting.cable.admitted = some { drive := .a, buffer := some .one }
      ∧ testWriting.selected = some .a ∧ true ≠ testWriting.lines.side := by
  decide +kernel

theorem test_hyp_SideChoosesHead : testBase.steady := by decide

theorem test_hyp_WgateEdgeIsJudged :
    (testBase.steady ∧ testBase.lines.wgate = false ∧ testBase.cable.admitted = none
      ∧ testBase.cable.guard = false ∧ testBase.selected = some .a ∧ testBase.wprot .a = false
      ∧ (testBase.drive .a).isAtSpeed = true ∧ testBase.isHeld = false ∧ testBase.keyOf .a = some testKey
      ∧ testBase.emptyBuffer = some .one) ∧ testBase.followed :=
  ⟨by decide +kernel, followed_of _ (by decide +kernel)⟩

/-- `testBase` with the guard running, with nothing selected, and with the lock on. -/
def testGuarded : State := { testBase with cable.guard := true }

theorem test_hyp_WgateEdgeIgnored :
    (testGuarded.steady ∧ testGuarded.lines.wgate = false ∧ testGuarded.cable.admitted = none) ∧ testGuarded.followed
      ∧ testReady.selected = none ∧ testReady.followed
      ∧ ({ testBase with panel.lock := true } : State).wprot .a = true
      ∧ ({ testBase with panel.lock := true } : State).followed :=
  ⟨by decide +kernel, followed_of _ (by decide +kernel), by decide, followed_of _ (by decide +kernel), by decide,
    followed_of _ (by decide +kernel)⟩

/-- `testBase` with drive A's motor off, so that an edge is cable fault (b). -/
def testStopped : State :=
  { testBase with lines.mot0 := false, driveA.spindle := .stopped, rotation.hold := .none }

theorem test_hyp_WgateEdgeFaultB :
    (testStopped.steady ∧ testStopped.cable.guard = false ∧ testStopped.selected = some .a
      ∧ testStopped.wprot .a = false ∧ (testStopped.drive .a).isAtSpeed = false
      ∧ testStopped.cable.admitted = none) ∧ testStopped.followed :=
  ⟨by decide +kernel, followed_of _ (by decide +kernel)⟩

/-- `testBase` with both buffers in use. -/
def testFull : State :=
  { testBase with capture.buf1 := .waitingMerge testReleased, capture.buf2 := .waitingMerge testReleased }

theorem test_hyp_WgateEdgeNoBuffer :
    (testFull.steady ∧ testFull.emptyBuffer = none ∧ testFull.wprot .a = false ∧ testFull.cable.guard = false
      ∧ testFull.isHeld = false) ∧ testFull.followed :=
  ⟨by decide +kernel, followed_of _ (by decide +kernel)⟩

theorem test_hyp_WgateReleaseClosesCapture :
    testWriting.steady ∧ testWriting.lines.wgate = true
      ∧ testWriting.cable.admitted = some { drive := .a, buffer := some .one }
      ∧ testWriting.buffer .one = .capturing testCapture ∧ testCapture.orphaned = false
      ∧ testWriting.isOutside testCapture.key = false ∧ testCapture.frameChanged = false
      ∧ ({ testCapture with frameChanged := true } : Capture).frameChanged = true := by
  decide +kernel

/-- Drive A spinning up, moving, in SWAP. -/
def testTimers : State :=
  { testBase with
    driveA.spindle := .spinningUp 250, driveA.motion := .moving 18, driveA.media := .swap 1000
    rotation.hold := .none }

theorem test_hyp_TimersExpire :
    (testTimers.steady ∧ (testTimers.drive .a).spindle = .spinningUp 250 ∧ (testTimers.drive .a).motion = .moving 18
      ∧ (testTimers.drive .a).media = .swap 1000) ∧ testTimers.followed :=
  ⟨by decide +kernel, followed_of _ (by decide +kernel)⟩

/-- Drive A moving over a disk. -/
def testMoving : State := { testBase with driveA.motion := .moving 18, rotation.hold := .none }

/-- The DEMAND entries for keys other than a drive's own and those of waiting captures. -/
def askedElsewhere (s : State) (d : Drive) : Nat :=
  (s.cache.loads.filter fun x => decide (x.kind = .demand) && !(s.driveKeys d).contains x.key
    && !s.capture.buf1.protects x.key && !s.capture.buf2.protects x.key).length

/-- `testMoving` with four DEMAND entries: two of drive B's cylinder, head 1 of drive A's, a waiting capture's. -/
def testCrossing : State :=
  let k : Key := { image := 0, cylinder := 5, head := 0 }
  { testMoving with
    driveB := { DriveUnit.powerOn with media := .present, mounted := some 1 }
    capture.buf1 := .waitingMerge { testReleased with capture := { testCapture with key := k } }
    cache.loads :=
      [{ key := { image := 1, cylinder := 0, head := 0 }, kind := .demand, drive := .b },
       { key := { image := 1, cylinder := 0, head := 1 }, kind := .demand, drive := .b },
       { key := { testKey with head := 1 }, kind := .demand, drive := .a },
       { key := k, kind := .demand, drive := .a }] }

theorem test_hyp_SettleAndSwapRequestCylinder :
    (testMoving.steady ∧ testMoving.isFailing = false ∧ testMoving.driveA.motion ≠ .settled
      ∧ testMoving.driveA.media = .present ∧ testKey ∈ testMoving.driveKeys .a
      ∧ testMoving.isOutside testKey = false ∧ testMoving.isCached testKey = false
      ∧ askedElsewhere testMoving .a = 0)
    ∧ testMoving.loadsLawful
    ∧ (testCrossing.steady ∧ testCrossing.cache.loads.length = 4 ∧ askedElsewhere testCrossing .a = 2
      ∧ testKey ∈ testCrossing.driveKeys .a ∧ testCrossing.isCached testKey = false)
    ∧ testCrossing.loadsLawful
    ∧ (testTimers.steady ∧ (testTimers.drive .a).media = .swap 1000 ∧ testKey ∈ testTimers.driveKeys .a) :=
  ⟨by decide +kernel, ⟨by decide, by decide, by decide⟩, by decide +kernel, ⟨by decide, by decide, by decide⟩,
    by decide +kernel⟩

/-! ### Hypotheses that are met: outputs and rotation -/

theorem test_hyp_Outputs :
    testReady.selected = none ∧ testBase.powered = true ∧ testBase.selected = some .a
      ∧ testBase.settings.line34 = .ready
      ∧ ({ testBase with settings.line34 := .diskchg } : State).settings.line34 = .diskchg
      ∧ testBase.entry 0 ≠ none ∧ testBase.streams = true ∧ testReady.streams = false
      ∧ testBase.keyOf .a = some testKey ∧ testBase.entry testKey.image = some testEntry := by
  decide +kernel

theorem test_hyp_DisplayShowsPage :
    testBase.powered = true ∧ testBase.panel.page = .normal ∧ testBase.card.state = .ready
      ∧ State.reset.card.state = .absent ∧ testBase.panel.blinkLit = true
      ∧ ({ testBase with alerts := testBase.alerts.set 4 true } : State).shownLatch = some 4 := by
  decide +kernel

/-- The display on a page in one half of the blink. -/
def shows (c : CardState) (p : Page) (lit : Bool) : String :=
  { testBase with
    card.state := c, panel.page := p, panel.blinkLit := lit, alerts := testBase.alerts.set 4 true }.digits

theorem test_display_texts :
    shows .asleep .normal true = "A 00" ∧ shows .waking .normal true = "A 00"
      ∧ shows (.reinit .ready 1) .normal true = "A 00" ∧ shows .absent .normal true = "A nc"
      ∧ shows (.identifying 0) .normal true = "A In" ∧ shows .fault .normal true = "A Fl"
      ∧ shows .ready (.browse (some 7)) true = "A 07" ∧ shows .ready (.browse (some 7)) false = "A   "
      ∧ shows .ready .alert true = "E 05" ∧ shows .ready .alert false = "    "
      ∧ shows .ready (.service .lock) true = "LOC " ∧ shows .ready (.service .revert) true = "rEV "
      ∧ shows .ready (.service .flush) true = "FLSH" ∧ shows .ready (.service .restart) true = "rSt "
      ∧ shows .ready (.service .queueLength) true = "q 00" ∧ shows .ready (.service .endItem) true = "End " := by
  decide +kernel

/-- Drive A held at index, and the same at the last cell. -/
def testHeld : State := { testBase with rotation.hold := .held testKey .a 400, driveA.heldKeys := [testKey] }

theorem test_hyp_CounterTurns :
    (testBase.steady ∧ testBase.isHeld = false ∧ testBase.rotation.position * 50 < testBase.rotation.cells)
    ∧ testBase.followed ∧ testBase.rotationLawful
    ∧ (testHeld.steady ∧ testHeld.isHeld = true) ∧ testHeld.followed ∧ testHeld.rotationLawful
    ∧ ({ testBase with rotation.position := 99999 } : State).followed
    ∧ ({ testBase with rotation.position := 99999 } : State).rotationLawful :=
  ⟨by decide +kernel, followed_of _ (by decide +kernel), rotationLawful_of _ (by decide +kernel), by decide,
    followed_of _ (by decide +kernel), rotationLawful_of _ (by decide +kernel), followed_of _ (by decide +kernel),
    rotationLawful_of _ (by decide +kernel)⟩

theorem test_hyp_CaptureRecordsEachCell :
    (testWriting.steady ∧ testWriting.isHeld = false ∧ testWriting.buffer .one = .capturing testCapture
      ∧ testCapture.phase < testCapture.rate.cellMicros) ∧ testWriting.followed :=
  ⟨by decide +kernel, followed_of _ (by decide +kernel)⟩

/-- A capture's clock runs on through a change of the governing rate (R67): at 250 kcells/s one cell is due after
4 microseconds, be they three cell times of 1000 kcells/s and one of 250 or one of 250. -/
theorem test_capture_clock :
    let c : Capture := { testCapture with rate := .k250 }
    let c3 := ((c.tick .k1000 []).tick .k1000 []).tick .k1000 []
    c3.count = 0 ∧ c3.phase = 3 ∧ (c3.tick .k250 [true]).count = 1 ∧ (c3.tick .k250 [true]).phase = 3
      ∧ (c.tick .k250 [true]).stream = [true]
      ∧ (({ testCapture with rate := .k1000 } : Capture).tick .k250 [true, false, true]).stream
        = [true, false, true, false] := by
  decide +kernel

/-- An FM capture with all of an ID mark recorded but its last cell. -/
def testMarked (e : Encoding) (k : FieldKind) : Capture :=
  { testCapture with encoding := e, count := 1000, recent := (runCells e false (markBytes e k)).dropLast }

theorem test_hyp_DecodesCell :
    (∀ k : FieldKind, HoldsMark .fm k (runCells .fm false (markBytes .fm k)))
    ∧ (∀ k : FieldKind, HoldsMark .mfm k (runCells .mfm false (markBytes .mfm k)))
    ∧ ((testMarked .fm .id).record false).opened.map (fun f => (f.kind, f.markPos, f.first)) = some (.id, 985, 985)
    ∧ ((testMarked .mfm .indexMark).record false).fields.map (fun f => (f.kind, f.markPos))
      = [(FieldKind.indexMark, 937)]
    ∧ (({ testMarked .fm .id with
          opened := some { kind := .data, markPos := 0, first := 0, revBytes := [1#8, 2#8], revCells := [] }
          cells := 1000 } : Capture).record false).fields = [] :=
  ⟨fun k => by cases k <;> simp only [HoldsMark] <;> decide +kernel,
    fun k => by cases k <;> simp only [HoldsMark] <;> decide +kernel, by decide +kernel, by decide +kernel,
    by decide +kernel⟩

theorem test_hyp_FrameChanged :
    ∃ t c, exec .writeGuardExpiry { testWriting with rotation.cells := 50000 } = .next t
      ∧ t.buffer .one = .capturing c ∧ t.rotation.cells ≠ 50000 :=
  ⟨_, { testCapture with frameChanged := true }, rfl, by decide +kernel, by decide +kernel⟩

theorem test_hyp_HoldBeginsAndEnds :
    (testBase.steady ∧ testBase.rotation.hold = .armed ∧ testBase.selected = some .a
      ∧ testBase.servedKey = some testKey) ∧ testBase.followed ∧ testBase.rotationLawful
    ∧ (testHeld.steady ∧ testHeld.rotation.hold = .held testKey .a 400) ∧ testHeld.followed
    ∧ ({ testBase with rotation.position := 99999 } : State).followed
    ∧ ({ testBase with rotation.position := 99999 } : State).rotation.position + 1 = testBase.rotation.cells :=
  ⟨by decide +kernel, followed_of _ (by decide +kernel), rotationLawful_of _ (by decide +kernel), by decide,
    followed_of _ (by decide +kernel), followed_of _ (by decide +kernel), by decide⟩

theorem test_hyp_RulesHoldAfterEveryCommand :
    State.reset.jobFollows = true ∧ ∃ t, exec .cardSleep State.reset = .next t ∧ t.powered = true :=
  ⟨by decide, _, rfl, by decide +kernel⟩

/-! ### Hypotheses that are met: the card -/

/-- The state with the card in another state. -/
def testCard (c : CardState) (h : Holder) : State := { testReady with card.state := c, card.holder := h }

theorem test_hyp_CardIsDetectedAndIdentified :
    (State.reset.steady ∧ State.reset.lines.cardDetect = false ∧ State.reset.card.state = .absent)
    ∧ ((testCard .settling .none).steady ∧ (testCard .settling .none).card.state = .settling)
    ∧ ((testCard (.identifying 2) .none).steady ∧ (testCard (.identifying 2) .none).card.state = .identifying 2)
    ∧ (ExchangeEnd.answered 1024 5 ≠ .answered 512 5 ∧ ExchangeEnd.silence ≠ .answered 512 5) := by
  decide +kernel

theorem test_hyp_CardRemovalForgetsCard :
    (({ testDirty with lines.cardDetect := true } : State).steady
      ∧ ({ testDirty with lines.cardDetect := true } : State).card.state = .ready)
    ∧ (testCard .settling .none).card.state = .settling ∧ (testCard .fault .none).card.state = .fault := by
  decide +kernel

theorem test_hyp_CardForgotten :
    testWriting.steady ∧ testWriting.buffer .one = .capturing testCapture ∧ testWriting.admissionFollows
      ∧ testWriting.spindlesFollow :=
  ⟨by decide, rfl, (followed_of testWriting (by decide +kernel)).2.2.2.1,
    (followed_of testWriting (by decide +kernel)).1⟩

theorem test_hyp_InsertionReads :
    ((testCard .readingVolume (.volumeRead .header 1)).steady
      ∧ Reads (testCard .readingVolume (.volumeRead .header 1)) .header 1)
    ∧ Reads (testCard .readingVolume (.volumeRead .settings 3)) .settings 3
    ∧ Reads (testCard .readingVolume (.volumeRead .catalogue 2)) .catalogue 2
    ∧ (parseHeader 200000 (Memory.readBlocks (testCard .readingVolume (.volumeRead .header 1)).card.medium 0 1)
        = none) := by
  decide +kernel

/-- A volume header with scratch areas at 100,000 and 130,000. -/
def testHeader : List Byte :=
  let h := [1#8] ++ List.replicate 16 0x20#8 ++ le32 2 ++ le16 100 ++ le32 100000 ++ le32 130000
  padTo 512 (h ++ checkBytes h)

theorem test_header_parses : parseHeader 200000 testHeader = some (100000, 130000) := by decide +kernel

/-- The header of that card read at insertion. -/
def testInserted : State :=
  { testCard .readingVolume (.volumeRead .header 1) with card.medium := Memory.writeBytes [] 0 testHeader }

theorem test_hyp_HeaderGives :
    HeaderGives 200000 (Memory.readBlocks testInserted.card.medium 0 1) 100000 130000
      ∧ Reads testInserted .header 1 ∧ testInserted.steady
      ∧ ∀ sa sb, ¬HeaderGives 200000 (Memory.readBlocks [] 0 1) sa sb :=
  ⟨by simp only [HeaderGives]; decide +kernel, by decide, by decide,
    fun _ _ h => absurd h.1 (by decide +kernel)⟩

/-- A settings record with urgent-on 3, an urgent-off of 3 and a settle time of 61: the last two out of range. -/
def testSettings : List Byte :=
  let f := [1#8, 1#8, 2#8, 0#8, 1#8, 61#8] ++ le16 0 ++ le16 1500 ++ le16 200 ++ [60#8, 3#8, 3#8, 0#8, 1#8, 1#8]
    ++ le16 0xF001
  f ++ checkBytes f

theorem test_hyp_SettingsGiven :
    checkPasses testSettings 20 = true ∧ checkPasses [1#8] 20 = false
      ∧ (parseSettings testSettings).2 = false ∧ (parseSettings testSettings).1.settleMs = 18
      ∧ (parseSettings testSettings).1.urgentOff = 2 ∧ (parseSettings testSettings).1.selB = none
      ∧ (parseSettings testSettings).1.motA = .select ∧ (parseSettings testSettings).1.enables[0] = true
      ∧ (parseSettings testSettings).1.enables[11] = false := by
  decide +kernel

/-- A catalogue entry of 64 bytes that ends at block 200,000. -/
def testEntryBytes : List Byte :=
  let f := [1#8] ++ List.replicate 8 0x41#8 ++ [80#8, 2#8] ++ le16 300 ++ le16 500 ++ [1#8, 0#8] ++ le32 179520
    ++ List.replicate 39 0#8
  f ++ checkBytes f

theorem test_hyp_EntryGiven : EntryGiven 200000 testEntryBytes { testEntry with base := 179520 } := by
  simp only [EntryGiven]; decide +kernel

theorem test_hyp_VolumeStateReadMakesCardReady :
    (testCard .readingVolume (.volumeRead .volumeState 1)).steady
      ∧ (testCard .readingVolume (.volumeRead .volumeState 1)).jobFollows = true
      ∧ (testCard .readingVolume (.volumeRead .volumeState 1)).isFailing = false
      ∧ Reads (testCard .readingVolume (.volumeRead .volumeState 1)) .volumeState 1
      ∧ (testCard .readingVolume (.volumeRead .volumeState 1)).driveA.mounted = none := by
  decide +kernel

theorem test_hyp_TimeoutsGoThroughReinit :
    ((testLoad (.probe0 1) false).steady ∧ (testLoad (.probe0 1) false).card.holder ≠ .none
      ∧ (testLoad (.probe0 1) false).card.state = .ready)
    ∧ ((testCard (.reinit .ready 2) .none).steady
      ∧ (testCard (.reinit .ready 2) .none).card.state = .reinit .ready 2
      ∧ (testCard (.reinit .ready 2) .none).headerAgrees = true)
    ∧ (({ testCard (.reinit .ready 0) .none with card.header := some testHeader } : State).headerAgrees = false)
    ∧ ((testCard (.reinit .readingVolume 0) (.volumeRead .header 3)).steady)
    ∧ (Memory.readBlocks (Memory.writeBytes [] 0 (padTo 512 testHeader)) 0 1 = testHeader) := by
  decide +kernel

/-- A record's first block as it stands on the card. -/
def testHead : List Byte := (serialise (.sectored testSectored) 0 0 3).take 512

/-- A state taken into REINIT from READY. -/
def inReinit (s : State) : State := { s with card.state := .reinit .ready 0 }

theorem test_hyp_NextAttempt :
    ((inReinit (testLoad (.probe0 3) false)).steady ∧ (inReinit (testLoad (.probe0 3) true)).steady
      ∧ (inReinit (testLoad (.probe0 1) false)).steady ∧ (inReinit (testLoad (.probe0 3) false)).headerAgrees = true
      ∧ ((inReinit (testLoad (.probe0 3) false)).slot 0).context.any LoadContext.abandoned = false)
    ∧ ((inReinit (testFlush .writing (.write .p1 4) 2)).steady
      ∧ ((inReinit (testFlush .writing (.write .p1 4) 3)).slot 0).attempts = 3
      ∧ (inReinit (testFlush .writing (.check 3 .p0 testHead 2) 2)).steady
      ∧ (FlushStage.check 3 .p0 testHead 2).attempt = 3
      ∧ (FlushStage.probe0 2).attempt < 3)
    ∧ (testCard (.reinit .ready 2)
        (.volumeWrite { state := .clean, slotA := none, slotB := none, count := 1 } 3)).steady
    ∧ ((inReinit (testLoad (.probe0 3) false)).setSlot 0
        { testLoading testKey with context := some { kind := .demand, drive := .a, abandoned := true } }).steady := by
  decide +kernel

/-- READY with the sleep request waiting. -/
def testSleepy : State := { testReady with power.state := .drain, power.job := .idleSleep }

theorem test_hyp_CardSleepsAndWakes :
    (testSleepy.steady ∧ testSleepy.maySleep = true ∧ testSleepy.activeLine = false)
    ∧ ((testCard .waking .none).powered = true ∧ (testCard .waking .none).power.job.isRestart = false
      ∧ (testCard .waking .none).card.state = .waking) := by
  decide +kernel

/-! ### Hypotheses that are met: loads and merges -/

/-- `testBase` with a load of its key asked for. -/
def testAsked : State := { testBase with cache.loads := [{ key := testKey, kind := .demand, drive := .a }] }

theorem test_hyp_LoadStartTakesSlot :
    testAsked.steady ∧ testAsked.grant = some .loader ∧ testAsked.isCached testKey = false
      ∧ testAsked.loadSlot = some 0 ∧ testAsked.entry 0 = some testEntry ∧ testEntry.policy ≠ .overlay
      ∧ ({ testWith (testSlot .clean testKey) with
            cache.loads := [{ key := testKey, kind := .demand, drive := .a }] } : State).grant = some .loader
      ∧ ({ testWith (testSlot .clean testKey) with
            cache.loads := [{ key := testKey, kind := .demand, drive := .a }] } : State).isCached testKey = true := by
  decide +kernel

/-- `testAsked` with image 1, an OVERLAY image, in drive A and its track written to scratch. -/
def testAskedOverlay : State :=
  { testBase with
    driveA.mounted := some 1
    driveA.overlay := [{ cylinder := 0, head := 0, place := .p1, generation := 2 }]
    cache.loads := [{ key := { testKey with image := 1 }, kind := .demand, drive := .a }] }

theorem test_hyp_LoadStartList :
    testAsked.loadsLawful ∧ testAsked.cacheLawful ∧ (∀ b r, testAsked.buffer b ≠ .waitingMerge r)
      ∧ ({ testAskedOverlay with driveA.overlay := [] } : State).grant = some .loader
      ∧ (({ testAskedOverlay with driveA.overlay := [] } : State).drive .a).overlayEntry { testKey with image := 1 }
        = none :=
  ⟨⟨by decide, by decide, by decide⟩,
    ⟨by decide +kernel, by decide +kernel, by decide +kernel, by decide +kernel, by decide +kernel, by decide +kernel,
      fun _ h => (by cases h), fun _ h => (by cases h)⟩,
    fun b r => (by cases b <;> exact fun h => (by cases h)), by decide +kernel, by decide +kernel⟩

theorem test_hyp_LoadStartOverlay :
    testAskedOverlay.steady ∧ testAskedOverlay.grant = some .loader
      ∧ testAskedOverlay.mountDrive 1 = some .a ∧ testAskedOverlay.entry 1 = some testOverlay
      ∧ (testAskedOverlay.drive .a).overlayEntry { testKey with image := 1 }
        = some { cylinder := 0, head := 0, place := .p1, generation := 2 } := by
  decide +kernel

/-- Every slot CLEAN with a key of cylinder 10 and up of image 0, which nothing pins. -/
def testCrowded : State :=
  { testBase with
    cache.slots := Vector.ofFn fun i => testSlot .clean { image := 0, cylinder := 10 + i.val, head := 0 }
    cache.recency := slotIds }

theorem test_hyp_VictimIsLeastRecentEvictable :
    testBase.loadSlot = some 0 ∧ testCrowded.loadSlot = some 15 ∧ testCrowded.freeSlot = none := by
  decide +kernel

/-- `testDirty` with a load of head 1's key asked for. -/
def testBusy (kind : LoadKind) : State :=
  { testDirty with cache.loads := [{ key := { testKey with head := 1 }, kind := kind, drive := .a }] }

theorem test_hyp_GrantsInOrder :
    ({ testBusy .demand with volume.pendingWrite := some .recorded } : State).grant = some .volume
      ∧ ({ testBusy .demand with commit.urgent := true } : State).grant = some .flusher
      ∧ (testBusy .demand).grant = some .loader ∧ (testBusy .demand).isUrgent = false
      ∧ (testBusy .prefetch).grant = some .flusher
      ∧ ({ testBusy .prefetch with card.writeFault := true } : State).grant = some .loader
      ∧ ({ testBusy .prefetch with card.writeFault := true, commit.urgent := true } : State).grant = none
      ∧ testBase.grant = none ∧ (testLoad (.probe0 1) false).grant = none := by
  decide +kernel

theorem test_hyp_ProbeChoosesNewerPlace :
    ((testLoad (.probe0 1) false).steady
      ∧ Loads (testLoad (.probe0 1) false)
          { slot := 0, area := .image, base := 100, abort := false, stage := .probe0 1 })
    ∧ (Loads (testLoad (.probe1 1 []) false)
          { slot := 0, area := .image, base := 100, abort := false, stage := .probe1 1 [] }
      ∧ ((testLoad (.probe1 1 []) false).slot 0).context.any LoadContext.abandoned = false
      ∧ placeClass [] = .blank ∧ placeClass ((testLoad (.probe1 1 []) false).readHead 100 .p1) = .blank) := by
  decide +kernel

/-- A second probe read with both places VALID, and which is newer. -/
def testBoth (g : Nat) : State :=
  { testLoad (.probe1 1 testHead) false with
    card.medium := Memory.writeBytes [] (164 * 512) ((serialise (.sectored testSectored) 0 0 g).take 512) }

theorem test_hyp_ProbeBothValid :
    (testBoth 3).steady ∧ placeClass testHead = .valid 3
      ∧ placeClass ((testBoth 3).readHead 100 .p1) = .valid 3
      ∧ placeClass ((testBoth 4).readHead 100 .p1) = .valid 4
      ∧ lengthGood ((testBoth 4).readHead 100 .p1) = true := by
  decide +kernel

theorem test_place_classes :
    placeClass testHead = .valid 3 ∧ lengthGood testHead = true
      ∧ placeClass (testHead.set 9 1#8) = .damaged ∧ placeClass (testHead.set 0 0#8) = .blank := by
  decide +kernel

theorem test_hyp_RecordReadFillsSlot :
    Loads (testLoad (.body 1 .p0 testHead none .none) false)
        { slot := 0, area := .image, base := 100, abort := false, stage := .body 1 .p0 testHead none .none }
      ∧ (testLoad (.body 1 .p0 testHead none .none) false).steady
      ∧ (testLoad (.body 1 .p0 testHead none .none) false).recordFor 0 (serialise (.sectored testSectored) 0 0 3)
          = some (.sectored testSectored) := by
  decide +kernel

/-- Both keys of drive A's cylinder resident and the load list empty. -/
def testResident : State :=
  { (testBase.setSlot 0 (testSlot .clean testKey)).setSlot 1 (testSlot .clean { testKey with head := 1 }) with
    cache.recency := [0, 1], rotation.hold := .none }

/-- A DEMAND load that ends so has the next cylinder prefetched (R102). -/
theorem test_hyp_PrefetchFollows :
    ((testResident.considerPrefetch testKey .a).cache.loads.map fun x => (x.key.cylinder, x.key.head))
      = [(1, 0), (1, 1)]
    ∧ ({ testResident with settings.prefetch := false } : State).considerPrefetch testKey .a
      = { testResident with settings.prefetch := false }
    ∧ (∀ b r, (testLoad (.body 1 .p0 testHead none .none) false).buffer b ≠ .waitingMerge r) :=
  ⟨by decide +kernel, by decide +kernel, fun b r => by cases b <;> exact fun h => by cases h⟩

theorem test_hyp_RecordCheckPasses : recordCheckPasses (serialise (.sectored testSectored) 0 0 3) = true :=
  recordCheckPasses_serialise _ _ _ _

theorem test_hyp_RecordCheckFails :
    recordCheckPasses (testBase.readRecord 100 .p0 (List.replicate 24 0#8 ++ [8#8])) = false
      ∧ lengthGood testHead = true := by
  decide +kernel

theorem test_hyp_OverlayPlaceRead :
    Loads (testLoad (.overlayHead 1 .p1 2) false)
        { slot := 0, area := .image, base := 100, abort := false, stage := .overlayHead 1 .p1 2 }
      ∧ (testLoad (.overlayHead 1 .p1 2) false).steady
      ∧ placeClass ((testLoad (.overlayHead 1 .p1 2) false).readHead 100 .p1) ≠ .valid 2 := by
  decide +kernel

theorem test_hyp_AbortedAndAbandonedLoadsFreeSlot :
    ((testLoad (.probe0 1) true).steady ∧ (testLoad (.probe0 1) true).card.state = .ready)
      ∧ (testLoad (.probe0 1) true).followed :=
  ⟨by decide +kernel, followed_of _ (by decide +kernel)⟩

/-- An abandoned load of a key that drive A's head is over. -/
def testAbandoned (stage : LoadStage) : State :=
  (testLoad stage false).setSlot 0
    { testLoading testKey with context := some { kind := .demand, drive := .a, abandoned := true } }

theorem test_hyp_LoadFreed :
    ((testAbandoned (.body 3 .p0 testHead none .none)).steady
      ∧ ((testAbandoned (.body 3 .p0 testHead none .none)).slot 0).context.any LoadContext.abandoned = true
      ∧ (testAbandoned (.body 3 .p0 testHead none .none)).isFailing = false
      ∧ ((testAbandoned (.body 3 .p0 testHead none .none)).slot 0).key = some testKey
      ∧ testKey ∈ (testAbandoned (.body 3 .p0 testHead none .none)).driveKeys .a
      ∧ (testAbandoned (.body 3 .p0 testHead none .none)).isOutside testKey = false
      ∧ lengthGood (List.replicate 512 0#8) = false)
    ∧ (testAbandoned (.body 3 .p0 testHead none .none)).cacheLawful
    ∧ (testAbandoned (.body 3 .p0 testHead none .none)).loadsLawful
    ∧ DemandsAsked (testAbandoned (.body 3 .p0 testHead none .none)) :=
  ⟨by decide +kernel,
    ⟨by decide +kernel, by decide +kernel, by decide +kernel, by decide +kernel, by decide +kernel, by decide +kernel,
      fun op h => by cases h; decide +kernel, fun _ h => by cases h⟩,
    ⟨by decide, by decide, by decide⟩, fun x hx => absurd hx (List.not_mem_nil (a := x))⟩

theorem test_hyp_TransferErrorsRetry :
    (testLoad (.probe0 2) false).steady ∧ (LoadStage.probe0 2).attempt < 3 ∧ 3 ≤ (LoadStage.probe0 3).attempt
      ∧ (testFlush .writing (.probe0 1) 1).steady ∧ (FlushStage.probe0 1).isWrite = false
      ∧ (FlushStage.probe0 1).attempt < 3 := by
  decide +kernel

/-- A capture waiting for a CLEAN slot of its key. -/
def testWaiting : State :=
  { testWith (testSlot .clean testKey) with capture.buf1 := .waitingMerge testReleased, rotation.hold := .none }

theorem test_hyp_MergeAppliesCapture :
    testWaiting.steady ∧ testWaiting.buffer .one = .waitingMerge testReleased
      ∧ testWaiting.mustWait .one testReleased = false ∧ testWaiting.residentSlot testReleased.capture.key = some 0
      ∧ testWaiting.entry testReleased.capture.key.image = some testEntry := by
  decide +kernel

/-- A data field of 128 bytes with its correct CRC. -/
def testField : Field :=
  { kind := .deletedData, markPos := 3344, first := 0, idGood := false
    bytes := List.replicate 128 0x22#8 ++ fieldCrc .mfm .deletedData (List.replicate 128 0x22#8) false ++ [0x4E#8] }

/-- A capture of that field, begun after the sector's ID. -/
def testDataWrite : Released :=
  { capture := { testCapture with start := 2900, fields := [testField] }, endPos := 5500, indexCrossed := false
    order := 1 }

theorem test_hyp_DataFieldWriteChangesOneSector :
    (dataFieldWrite testSectored (layoutTable testSectored) testDataWrite).map (fun t => t.sectors.map (·.mark))
      = some [.deleted] := by
  decide +kernel

/-- R78's conditions at their limits: a start at the ID's end, an end at the next ID sync. -/
theorem test_hyp_DataFieldFits :
    ∀ row ∈ layoutTable testSectored, ∀ x ∈ testSectored.sectors,
      DataFieldFits testSectored x row
        { testDataWrite with capture.start := row.idEnd, endPos := row.nextIdSyncStart } testField
      ∧ ¬DataFieldFits testSectored x row { testDataWrite with capture.start := row.dataMarkStart } testField := by
  simp only [DataFieldFits]; decide +kernel

/-- The index mark field of a full-track write of one sector. -/
def testMarkField : Field := { kind := .indexMark, markPos := 1472, bytes := [], idGood := false, first := 0 }

/-- The ID field of that write. -/
def testIdField : Field :=
  let body := [0#8, 0#8, 1#8, 0#8]
  { kind := .id, markPos := 2528, bytes := body ++ fieldCrc .mfm .id body false, idGood := true, first := 0 }

/-- That write, its data field first in the list. -/
def testTrackWrite : Capture := { testCapture with fields := [testField, testMarkField, testIdField] }

theorem test_pair_good : pairGood .mfm (testIdField, testField) = true := by
  have ht : testField.bytes.take 128 = List.replicate 128 0x22#8 := rfl
  have hd : (testField.bytes.drop 128).take 2 = fieldCrc .mfm .deletedData (List.replicate 128 0x22#8) false := rfl
  have hl : idDataLength testIdField = 128 := by decide +kernel
  have hc : crcCorrect .mfm testField.kind (testField.bytes.take 128) ((testField.bytes.drop 128).take 2) = true := by
    rw [ht, hd]; exact beq_self_eq_true _
  rw [pairGood]
  simp only [hl, hc, Bool.and_true]
  decide +kernel

theorem test_hyp_PromotesParse :
    ParsePattern (sortFields testTrackWrite.fields) (some testMarkField) [(testIdField, testField)]
      ∧ (promotion testTrackWrite).map
          (fun t => (t.gap4a, t.gap1, t.gap2, t.gap3, t.sectors.length)) = some (80, some 50, 29, 255, 1)
      ∧ promotion { testTrackWrite with fields := [testMarkField, testIdField] } = none
      ∧ (∀ mark ps, ¬ParsePattern [testIdField] mark ps) := by
  have hs : parseFields testTrackWrite.fields = some (some testMarkField, [(testIdField, testField)]) := rfl
  have hp : promotion testTrackWrite = promote testTrackWrite (some testMarkField) [(testIdField, testField)] := by
    rw [promotion, hs]
  have hk : testTrackWrite.encoding = .mfm := by decide +kernel
  refine ⟨⟨rfl, fun m h => by cases h; rfl, fun p h => by cases List.mem_singleton.mp h; exact ⟨rfl, .inr rfl⟩⟩,
    ?_, by decide +kernel, ?_⟩
  · rw [hp, promote, hk]
    simp only [List.all_cons, test_pair_good]
    decide +kernel
  · intro mark ps h
    obtain ⟨h, hm, hps⟩ := h
    cases mark with
    | none =>
      cases ps with
      | nil => cases h
      | cons p ps => exact absurd (congrArg List.length h) (by simp)
    | some m => exact absurd ((congrArg Field.kind (List.cons.inj h).1).trans (hm m rfl)) (by decide)

/-- Two sectors whose measured gap2 is 2 and `g`. -/
def testTwoSectors (g : Nat) : List (Field × Field) :=
  [(testIdField, { testField with markPos := 2912 }),
   ({ testIdField with markPos := 6400 }, { testField with markPos := 6752 + 16 * g })]

/-- A later sector's gap2 of 0, though within 2 bytes of the first's, is below its range of R4 (R20, R84). -/
theorem test_later_gap_out_of_range :
    gap2s .mfm 100000 (testTwoSectors 0) = [2, 0] ∧ gap2s .mfm 100000 (testTwoSectors 1) = [2, 1]
      ∧ spreadSmall (gap2s .mfm 100000 (testTwoSectors 0)) = true
      ∧ promote testTrackWrite none (testTwoSectors 0) = none := by
  have h : ((gap2s .mfm 100000 (testTwoSectors 0)).all fun g => gapIn g 1 60) = false := by decide +kernel
  refine ⟨by decide +kernel, by decide +kernel, by decide +kernel, ?_⟩
  have he : testTrackWrite.encoding = .mfm := by decide +kernel
  have hc : testTrackWrite.cells = 100000 := by decide +kernel
  cases hp : promote testTrackWrite none (testTwoSectors 0) with
  | none => rfl
  | some t =>
    have range := (promote_conditions hp).2.2.2.2.2.1
    rw [he, hc, h] at range
    cases range

theorem test_hyp_ClassificationTakesFirstRow :
    classify testEntry none [] testReleased = .discard
      ∧ isFullTrack { testReleased with capture := { testCapture with crossings := 1 } } = true := by
  decide +kernel

theorem test_hyp_RevolutionsKeepTheirCells :
    2 < [true, false, true].length ∧ [false, false].length ≤ [true, false, true].length
      ∧ layOver [true, false, true] 2 [false, true] = [true, false, false]
      ∧ (layoutTable testSectored)[0]?.isSome = true ∧ testSectored.sectors[0]?.isSome = true := by
  decide

/-! ### Hypotheses that are met: flushes and the volume -/

theorem test_hyp_FlushStartTakesQueueHead :
    testDirty.steady ∧ testDirty.grant = some .flusher ∧ testDirty.commit.queue = [0]
      ∧ (testDirty.slot 0).key = some testKey ∧ (testDirty.slot 0).record = some (.sectored testSectored)
      ∧ testDirty.entry 0 = some testEntry ∧ testEntry.policy = .direct
      ∧ (testDirty.slot 0).origin ≠ .unknown ∧ flushTarget (testDirty.slot 0).origin = some (.p1, 4) := by
  decide +kernel

/-- The same for image 1, an OVERLAY image in drive A. -/
def testDirtyOverlay : State :=
  { testWith (testSlot .dirty { testKey with image := 1 }) with
    commit.queue := [0], rotation.hold := .none, driveA.mounted := some 1 }

theorem test_hyp_FlushStartOverlay :
    testDirtyOverlay.steady ∧ testDirtyOverlay.grant = some .flusher
      ∧ testDirtyOverlay.mountDrive 1 = some .a ∧ testDirtyOverlay.entry 1 = some testOverlay := by
  decide +kernel

theorem test_hyp_FlushProbeFindsOrigin :
    (testFlush .writing (.probe0 1) 1).steady ∧ (testFlush .writing (.probe1 1 testHead) 1).steady
      ∧ ((testFlush .writing (.probe1 1 testHead) 1).slot 0).state = .writing
      ∧ (testFlush .writing (.check 1 .p0 testHead 2) 1).card.state = .ready
      ∧ (testFlush .writing (.check 1 .p0 testHead 2) 1).card.buffer.isSome = true := by
  decide +kernel

theorem test_hyp_FlushWriteEndCompletesFlush :
    (testFlush .writing (.write .p1 4) 1).steady ∧ ((testFlush .writing (.write .p1 4) 1).slot 0).state = .writing
      ∧ ({ testFlush .writing (.write .p1 4) 1 with
            cache.slots := (testFlush .writing (.write .p1 4) 1).cache.slots.set 0
              { Slot.free with state := .discarding } } : State).card.buffer.isSome = true := by
  decide +kernel

theorem test_hyp_FlushFailuresRetryThenHold :
    (testFlush .writing (.write .p1 4) 2).steady ∧ ((testFlush .writing (.write .p1 4) 2).slot 0).attempts < 3
      ∧ 3 ≤ ((testFlush .writing (.write .p1 4) 3).slot 0).attempts := by
  decide +kernel

/-- READY with a CLEAN write pending for the idle drain. -/
def testClosing : State :=
  { testReady with volume.pendingWrite := some .clean, power.state := .drain, power.job := .idle .closing }

theorem test_hyp_VolumeStateWriteFixesContent :
    (testClosing.steady ∧ testClosing.grant = some .volume ∧ testClosing.activeLine = false
      ∧ testClosing.power.job.isClosing = true)
    ∧ ((testCard .ready (.volumeWrite { state := .clean, slotA := some 99, slotB := none, count := 0 } 3)).steady)
    ∧ parseVolumeState (volumeStateBlock { state := .clean, slotA := some 99, slotB := none, count := 0xFFFFFFFF#32 })
      = some { state := .clean, slotA := some 99, slotB := none, count := 0xFFFFFFFF#32 } := by
  decide +kernel

/-- The last flush of an idle drain. -/
def testLastFlush : State :=
  { testFlush .writing (.write .p1 4) 1 with
    lines := Lines.released, driveA.spindle := .stopped, power.state := .drain, power.job := .idle .draining }

theorem test_hyp_ClosesVolume :
    (testReady.steady ∧ testReady.lines.pfw = false ∧ testReady.isFailing = false ∧ testReady.commit.queue = []
      ∧ testReady.anyWriting = false ∧ testReady.volume.record.map VolumeRecord.state = some .open
      ∧ testReady.writesBarred = false ∧ ({ testReady with card.writeLocked := true } : State).writesBarred = true)
    ∧ (testLastFlush.steady ∧ testLastFlush.activeLine = false ∧ (testLastFlush.slot 0).redirty = false
      ∧ testLastFlush.commit.queue = []
      ∧ slotIds.all (fun j => decide (j = 0) || decide ((testLastFlush.slot j).state ≠ .writing)) = true)
    ∧ (∃ t, exec .writeGuardExpiry testReady = .next t ∧ t.powered = true) :=
  ⟨by decide +kernel, by decide +kernel, _, rfl, by decide +kernel⟩

/-! ### Hypotheses that are met: mounts, restart, panel -/

/-- A key freshly pressed. -/
def testPressed : KeyState := { pressed := true, stale := false, chorded := false, used := false, clicked := false }

/-- `testBase` on a page with ENTER pressed. -/
def testPage (p : Page) : State := { testBase with panel.page := p, panel.enter := testPressed }

theorem test_hyp_MountRequestsAreDecided :
    ((testPage (.browse (some 1))).steady ∧ (testPage (.browse (some 1))).card.state = .ready
      ∧ (testPage (.browse (some 1))).panel.enter.isFresh = true ∧ (testPage (.browse (some 1))).isFailing = false
      ∧ (testPage (.browse (some 1))).entry 1 ≠ none ∧ (testPage (.browse (some 1))).driveA.mounted ≠ some 1
      ∧ (testPage (.browse (some 1))).driveB.mounted ≠ some 1)
    ∧ ((testPage (.service .revert)).steady ∧ (testPage (.service .revert)).driveA.mounted = some 0)
    ∧ (testPage (.browse (some 2))).entry 2 = none
    ∧ (testPage (.browse none)).panel.page = .browse none
    ∧ (testPage (.browse (some 0))).panel.page = .browse (testPage (.browse (some 0))).driveA.mounted := by
  decide +kernel

/-- `testDirty` about to unmount. -/
def testUnmounting : State :=
  { testDirty with panel.page := .browse none, panel.enter := testPressed }

theorem test_hyp_UnmountTreatsSlotsByPolicy :
    (testUnmounting.steady ∧ testUnmounting.isFailing = false ∧ testUnmounting.card.state = .ready
      ∧ testUnmounting.panel.enter.isFresh = true ∧ testUnmounting.driveA.mounted = some 0
      ∧ testUnmounting.entry 0 = some testEntry) ∧ testUnmounting.cacheLawful :=
  ⟨by decide +kernel, by decide +kernel, by decide +kernel, by decide, by decide +kernel, by decide,
    by decide +kernel, fun _ h => (by cases h), fun _ h => (by cases h)⟩

theorem test_hyp_RestartDrainsThenDiscards :
    ((testPage (.service .restart)).steady ∧ (testPage (.service .restart)).isFailing = false
      ∧ (testPage (.service .restart)).commit.queue = [])
    ∧ (({ testDirty with panel.page := .service .restart, panel.enter := testPressed } : State).steady
      ∧ testDirty.commit.queue ≠ [] ∧ testDirty.card.writeFault = false)
    ∧ ({ testCard .ready (.volumeWrite { state := .clean, slotA := none, slotB := none, count := 1 } 1) with
          power.job := .restart .closing } : State).power.job = .restart .closing := by
  decide +kernel

/-- `testBase` on ALERT with LATE latched and the chord down. -/
def testAlert : State :=
  { testBase with
    alerts := testBase.alerts.set 4 true
    panel := { testBase.panel with
      page := .alert, prev := { testPressed with chorded := true }, next := { testPressed with chorded := true } } }

theorem test_hyp_KeysAndAlertsAct :
    (testBase.steady ∧ (testPage .normal).panel.enter.isFresh = true ∧ testTwo.driveBOff = false) ∧ testBase.followed
    ∧ (testPage .normal).followed
    ∧ (testAlert.steady ∧ testAlert.panel.chordLive = true ∧ testAlert.shownLatch = some 4) ∧ testAlert.followed
    ∧ (testPage (.browse none)).followed :=
  ⟨by decide +kernel, followed_of _ (by decide +kernel), followed_of _ (by decide +kernel), by decide +kernel,
    followed_of _ (by decide +kernel), followed_of _ (by decide +kernel)⟩

/-- NORMAL with NEXT just released, and with the chord down. -/
def testClicked : State := { testBase with panel.next := { testPressed with pressed := false, clicked := true } }

/-- NORMAL with the chord down. -/
def testChord : State :=
  { testBase with
    panel := { testBase.panel with
      prev := { testPressed with chorded := true }, next := { testPressed with chorded := true } } }

theorem test_hyp_PagesFollowKeys :
    (testClicked.steady ∧ testClicked.panel.next.clicked = true ∧ testChord.panel.chordLive = true
      ∧ ({ testPage (.browse none) with panel.next := testPressed } : State).panel.next.isFresh = true)
    ∧ testClicked.followed ∧ testChord.followed ∧ (testPage (.service .endItem)).followed
    ∧ testBase.validSlots = [0, 1] :=
  ⟨by decide +kernel, followed_of _ (by decide +kernel), followed_of _ (by decide +kernel),
    followed_of _ (by decide +kernel), by decide +kernel⟩

theorem test_hyp_ServiceItemsAct :
    ((testPage (.service .lock)).steady ∧ (testPage (.service .flush)).panel.enter.isFresh = true)
    ∧ (testPage (.service .lock)).followed ∧ (testPage (.service .flush)).followed
    ∧ (testPage (.service .queueLength)).followed :=
  ⟨by decide +kernel, followed_of _ (by decide +kernel), followed_of _ (by decide +kernel),
    followed_of _ (by decide +kernel)⟩

/-! ### Hypotheses that are met: frames, invariants, records -/

theorem test_hyp_Frames :
    (∃ t, exec .cardSleep testBase = .next t) ∧ testBase.steady ∧ Instr.cardSleep ≠ .powerOn := ⟨⟨_, rfl⟩, by decide⟩

theorem test_hyp_Invariants :
    ∃ t, step testUnmounting = .next t ∧ testUnmounting.settings.lawful = true ∧ testUnmounting.jobFollows = true
      ∧ Memory.wf testUnmounting.card.medium = true := ⟨_, rfl, by decide, by decide, by decide⟩

theorem test_hyp_RecordsReadBackFromCard :
    (Record.sectored testSectored).lawful testEntry = true
      ∧ parseRecord testEntry testKey (serialise (.sectored testSectored) 0 0 1)
        = some (.sectored testSectored) := by
  decide +kernel

/-! ### Worked cases -/

/-- The CRC of R14 over the sync-mark bytes and an ID field of C 0, H 0, R 1, N 2 is CA6F hex. -/
theorem test_id_crc : fieldCrc .mfm .id [0#8, 0#8, 1#8, 2#8] false = [0xCA#8, 0x6F#8] := by
  decide +kernel

/-- The check of R189 over the nine ASCII digits is CBF43926 hex, the reflected CRC-32's. -/
theorem test_check :
    crc32 [0x31#8, 0x32#8, 0x33#8, 0x34#8, 0x35#8, 0x36#8, 0x37#8, 0x38#8, 0x39#8] = 0xCBF43926#32 := by
  decide +kernel

/-- A full-track start at position 1,562 counts and one at 1,563 does not, for 100,000 cells (R76). -/
theorem test_full_track_start :
    isFullTrack { testReleased with capture := { testCapture with start := 1562, crossings := 1 } } = true
      ∧ isFullTrack { testReleased with capture := { testCapture with start := 1563, crossings := 1 } } = false := by
  decide +kernel

/-- The first fiftieth of 83,333 cells, rounded up, is 1,667 cells (R49). -/
theorem test_window_end : windowEnd 83333 = 1667 ∧ windowEnd 100000 = 2000 := by decide

/-- A step OUT at cylinder 0 and a step IN at cylinder 84 stay (R32). -/
theorem test_step_limits : stepCylinder false 0 = 0 ∧ stepCylinder true 84 = 84 := by decide

end Sys2Proof.Machine
end

