-- ==== Sys2Proof/Proofs/TrackCells.lean ====
section
/-! SUPPORT. The cells of bytes and of runs of bytes, the length of a revolution, the CRC of a field with its CRC bytes,
and cells laid over a ring (R9, R13, R14, R80, R186). -/

namespace Sys2Proof.Machine

/-! ### The bits and cells of one byte (R186) -/

@[simp] theorem length_byteBits (v : Byte) : (byteBits v).length = 8 := rfl

theorem getElem?_byteBits (v : Byte) : ∀ {i : Nat}, i < 8 → (byteBits v)[i]? = some (v.getLsbD (7 - i))
  | 0, _ | 1, _ | 2, _ | 3, _ | 4, _ | 5, _ | 6, _ | 7, _ => rfl
  | i + 8, h => absurd h (by omega)

@[simp] theorem length_mfmCells (prev : Bool) (bs : List Bool) : (mfmCells prev bs).length = 2 * bs.length := by
  induction bs generalizing prev with
  | nil => rfl
  | cons b bs ih => simp only [mfmCells, List.length_cons, ih]; omega

theorem getElem?_mfmCells_data (prev : Bool) (bs : List Bool) (i : Nat) :
    (mfmCells prev bs)[2 * i + 1]? = bs[i]? := by
  induction bs generalizing prev i with
  | nil => rfl
  | cons b bs ih =>
    cases i with
    | zero => rfl
    | succ i => exact ih b i

theorem getElem?_mfmCells_clock (prev : Bool) (bs : List Bool) (i : Nat) :
    (mfmCells prev bs)[2 * i]? = bs[i]?.map fun b => !(prev :: bs).getD i false && !b := by
  induction bs generalizing prev i with
  | nil => rfl
  | cons b bs ih =>
    cases i with
    | zero => rfl
    | succ i => exact ih b i

theorem length_interleave {cs ds : List Bool} (h : cs.length = ds.length) :
    (interleave cs ds).length = 2 * ds.length := by
  induction cs generalizing ds with
  | nil => cases ds with
    | nil => rfl
    | cons d ds => cases h
  | cons c cs ih => cases ds with
    | nil => cases h
    | cons d ds => simp only [interleave, List.length_cons, ih (Nat.succ.inj h)]; omega

theorem getElem?_interleave {cs ds : List Bool} (h : cs.length = ds.length) (i : Nat) :
    (interleave cs ds)[2 * i]? = cs[i]? ∧ (interleave cs ds)[2 * i + 1]? = ds[i]? := by
  induction cs generalizing ds i with
  | nil => cases ds with
    | nil => exact ⟨rfl, rfl⟩
    | cons d ds => cases h
  | cons c cs ih => cases ds with
    | nil => cases h
    | cons d ds => cases i with
      | zero => exact ⟨rfl, rfl⟩
      | succ i => exact ih (Nat.succ.inj h) i

/-- Every byte occupies 16 cells (R9). -/
@[simp] theorem length_byteCells (e : Encoding) (prev : Bool) (b : RenderByte) : (byteCells e prev b).length = 16 := by
  cases b with
  | plain v => cases e with
    | mfm => exact length_mfmCells prev (byteBits v)
    | fm => exact length_interleave rfl
  | syncA1 => rfl
  | syncC2 => rfl
  | fmMark clock v => exact length_interleave rfl

theorem byteCells_plain_data (e : Encoding) (prev : Bool) (v : Byte) {i : Nat} (h : i < 8) :
    (byteCells e prev (.plain v))[2 * i + 1]? = some (v.getLsbD (7 - i)) := by
  rw [← getElem?_byteBits v h]
  cases e with
  | mfm => exact getElem?_mfmCells_data prev (byteBits v) i
  | fm => exact (getElem?_interleave (cs := byteBits 0xFF#8) (ds := byteBits v) rfl i).2

theorem byteCells_mfm_clock (prev : Bool) (v : Byte) {i : Nat} (h : i < 8) :
    (byteCells .mfm prev (.plain v))[2 * i]?
      = some (!(if i = 0 then prev else v.getLsbD (8 - i)) && !v.getLsbD (7 - i)) := by
  have cells := getElem?_mfmCells_clock prev (byteBits v) i
  rw [getElem?_byteBits v h] at cells
  refine cells.trans ?_
  cases i with
  | zero => rfl
  | succ i =>
    have before := getElem?_byteBits v (Nat.lt_of_succ_lt h)
    simp [List.getD_eq_getElem?_getD, before]

theorem byteCells_fm_clock (prev : Bool) (v : Byte) {i : Nat} (h : i < 8) :
    (byteCells .fm prev (.plain v))[2 * i]? = some true := by
  have ones : ∀ j, j < 8 → (0xFF#8).getLsbD (7 - j) = true := by decide
  rw [← ones i h, ← getElem?_byteBits _ h]
  exact (getElem?_interleave (cs := byteBits 0xFF#8) (ds := byteBits v) rfl i).1

theorem byteCells_fmMark (e : Encoding) (prev : Bool) (clock v : Byte) {i : Nat} (h : i < 8) :
    (byteCells e prev (.fmMark clock v))[2 * i]? = some (clock.getLsbD (7 - i))
      ∧ (byteCells e prev (.fmMark clock v))[2 * i + 1]? = some (v.getLsbD (7 - i)) := by
  rw [← getElem?_byteBits v h, ← getElem?_byteBits clock h]
  exact getElem?_interleave (cs := byteBits clock) (ds := byteBits v) rfl i

theorem byteCells_syncMarks (e : Encoding) (prev : Bool) :
    byteCells e prev .syncA1 = byteBits 0x44#8 ++ byteBits 0x89#8
      ∧ byteCells e prev .syncC2 = byteBits 0x52#8 ++ byteBits 0x24#8 := ⟨rfl, rfl⟩

/-! ### The cells of a run of bytes and of a ring (R9, R13) -/

@[simp] theorem length_runCells (e : Encoding) (prev : Bool) (bs : List RenderByte) :
    (runCells e prev bs).length = 16 * bs.length := by
  induction bs generalizing prev with
  | nil => rfl
  | cons b bs ih => simp only [runCells, List.length_append, length_byteCells, ih, List.length_cons]; omega

theorem runLastBit_of_getLast? {prev : Bool} {bs : List RenderByte} {b : RenderByte} (h : bs.getLast? = some b) :
    runLastBit prev bs = b.lastBit := by
  simp only [runLastBit, h]

theorem runLastBit_cons (prev : Bool) (b : RenderByte) (bs : List RenderByte) :
    runLastBit prev (b :: bs) = runLastBit b.lastBit bs := by
  cases h : bs.getLast? with
  | none => obtain rfl := List.getLast?_eq_none_iff.mp h; rfl
  | some c =>
    have last : (b :: bs).getLast? = some c := by simp [List.getLast?_cons, h]
    rw [runLastBit_of_getLast? h, runLastBit_of_getLast? last]

theorem runLastBit_take_succ {prev : Bool} {bs : List RenderByte} {j : Nat} {b : RenderByte} (h : bs[j]? = some b) :
    runLastBit prev (bs.take (j + 1)) = b.lastBit :=
  runLastBit_of_getLast? (by simp [List.getLast?_take, h])

/-- Byte i of a run occupies its cells 16 i to 16 i + 15, made after the last data bit of the bytes before it (R9). -/
theorem runCells_byte {e : Encoding} {prev : Bool} {bs : List RenderByte} {i : Nat} {b : RenderByte}
    (h : bs[i]? = some b) :
    ((runCells e prev bs).drop (16 * i)).take 16 = byteCells e (runLastBit prev (bs.take i)) b := by
  induction bs generalizing prev i with
  | nil => cases h
  | cons c bs ih =>
    cases i with
    | zero =>
      obtain rfl : c = b := Option.some.inj h
      exact List.take_left' (length_byteCells e prev c)
    | succ i =>
      have past : (runCells e prev (c :: bs)).drop (16 * (i + 1)) = (runCells e c.lastBit bs).drop (16 * i) := by
        rw [Nat.mul_succ, Nat.add_comm, ← List.drop_drop, runCells, List.drop_left' (length_byteCells e prev c)]
      rw [past, ih h, List.take_succ_cons, runLastBit_cons]

/-- A ring of as many whole bytes as the revolution holds has exactly its cells (R9). -/
theorem length_ringCells (e : Encoding) (cells : Nat) (bs : List RenderByte) (h : bs.length = bytesPerRev cells) :
    (ringCells e cells bs).length = cells := by
  simp only [ringCells, List.length_append, length_runCells, List.length_take, length_byteCells, h, bytesPerRev,
    remainingCells]
  omega

theorem ringCells_byte {e : Encoding} {cells : Nat} {bs : List RenderByte} {i : Nat} {b : RenderByte}
    (h : bs[i]? = some b) :
    ((ringCells e cells bs).drop (16 * i)).take 16
      = byteCells e (runLastBit (ringLastBit e cells bs) (bs.take i)) b := by
  have inside : i < bs.length := (List.getElem?_eq_some_iff.mp h).1
  have within : 16 * i + 16 ≤ (runCells e (ringLastBit e cells bs) bs).length := by rw [length_runCells]; omega
  rw [← runCells_byte h, ringCells, List.drop_append_of_le_length (by omega),
    List.take_append_of_le_length (by rw [List.length_drop]; omega)]

/-- With no data cell after the last whole byte, the ring's last data bit is that byte's (R13). -/
theorem ringLastBit_of_getLast? {e : Encoding} {cells : Nat} {bs : List RenderByte} {b : RenderByte}
    (few : cells % 16 < 2) (h : bs.getLast? = some b) : ringLastBit e cells bs = b.lastBit := by
  rw [ringLastBit, if_pos (by rw [remainingCells]; omega), runLastBit_of_getLast? h]

/-- Otherwise it is the last data bit that the remaining cells hold of one more fill byte (R9, R13). -/
theorem ringLastBit_of_remaining {e : Encoding} {cells : Nat} {bs : List RenderByte} (many : 2 ≤ cells % 16) :
    ringLastBit e cells bs = (fillByte e).getLsbD (8 - cells % 16 / 2) := by
  have bit := getElem?_byteBits (fillByte e) (i := cells % 16 / 2 - 1) (by omega)
  rw [ringLastBit, if_neg (by rw [remainingCells]; omega), remainingCells, List.getD_eq_getElem?_getD, bit,
    Option.getD_some]
  congr 1
  omega

theorem length_blankCells (e : Encoding) (cells : Nat) : (blankCells e cells).length = cells :=
  length_ringCells e cells _ List.length_replicate

/-! ### The CRC (R14, R15) -/

/-- A register whose highest bit is 0 is shifted with nothing added. -/
theorem crc16Bit_toNat_of_lt {r : Word16} (h : r.toNat < 32768) : (crc16Bit r).toNat = 2 * r.toNat := by
  have msb : r.msb = false := by rw [BitVec.msb_eq_decide]; exact decide_eq_false (by omega)
  rw [crc16Bit, msb, if_neg Bool.false_ne_true, BitVec.toNat_shiftLeft, Nat.shiftLeft_eq]
  omega

/-- While no shift brings out a 1, the register is multiplied by 2 each time. -/
theorem crc16Bit_repeat_toNat {n : Nat} {r : Word16} (h : r.toNat * 2 ^ n < 65536) :
    (Nat.repeat crc16Bit n r).toNat = r.toNat * 2 ^ n := by
  induction n with
  | zero => rw [Nat.repeat, Nat.pow_zero, Nat.mul_one]
  | succ n ih =>
    rw [Nat.pow_succ, ← Nat.mul_assoc] at h ⊢
    have shifted := ih (by omega)
    rw [Nat.repeat, crc16Bit_toNat_of_lt (by omega), shifted, Nat.mul_comm]

/-- A byte that cancels the register's high byte leaves its low byte in the high place. -/
theorem crc16Byte_toNat_of_lt {r : Word16} {b : Byte} (h : (r ^^^ (b.zeroExtend 16 <<< 8)).toNat < 256) :
    (crc16Byte r b).toNat = (r ^^^ (b.zeroExtend 16 <<< 8)).toNat * 256 :=
  crc16Bit_repeat_toNat (n := 8) (by omega)

theorem xor_highByte (c : Word16) :
    c ^^^ (((c >>> 8).setWidth 8).zeroExtend 16 <<< 8) = (c.setWidth 8).setWidth 16 := by
  ext i h
  by_cases low : i < 8
  · simp [low, BitVec.getLsbD_eq_getElem h]
  · have back : 8 + (i - 8) = i := by omega
    have high : i - 8 < 8 := by omega
    simp [low, back, high, BitVec.getLsbD_eq_getElem h]

theorem xor_lowByte (c : Word16) : (c <<< 8) ^^^ ((c.setWidth 8).zeroExtend 16 <<< 8) = 0#16 := by
  ext i h
  by_cases low : i < 8
  · simp [low]
  · have high : i - 8 < 8 := by omega
    have inside : i - 8 < 16 := by omega
    simp [low, high, BitVec.getLsbD_eq_getElem inside]

/-- The register passed its own two bytes is 0 (R14). -/
theorem foldl_crc16Byte_crc16Bytes (c : Word16) : (crc16Bytes c).foldl crc16Byte c = 0#16 := by
  have low : ((c.setWidth 8).setWidth 16).toNat = c.toNat % 256 := by
    rw [BitVec.toNat_setWidth, BitVec.toNat_setWidth]
    omega
  have high : crc16Byte c ((c >>> 8).setWidth 8) = c <<< 8 := by
    apply BitVec.eq_of_toNat_eq
    rw [crc16Byte_toNat_of_lt (by rw [xor_highByte, low]; omega), xor_highByte, low, BitVec.toNat_shiftLeft,
      Nat.shiftLeft_eq]
    omega
  have zero : crc16Byte (c <<< 8) (c.setWidth 8) = 0#16 := by
    apply BitVec.eq_of_toNat_eq
    rw [crc16Byte_toNat_of_lt (by rw [xor_lowByte]; decide), xor_lowByte]
    rfl
  rw [crc16Bytes, List.foldl_cons, high, List.foldl_cons, zero, List.foldl_nil]

/-- Bytes followed by their CRC leave the register at 0 (R14). -/
theorem crc16_append_crc16Bytes (bs : List Byte) : crc16 (bs ++ crc16Bytes (crc16 bs)) = 0#16 := by
  rw [crc16, List.foldl_append]
  exact foldl_crc16Byte_crc16Bytes (crc16 bs)

theorem crc16Bytes_not (c : Word16) : crc16Bytes (~~~c) = (crc16Bytes c).map fun b => ~~~b := by
  have high : (~~~c >>> 8).setWidth 8 = ~~~((c >>> 8).setWidth 8 : Byte) := by
    ext i h
    have inside : 8 + i < 16 := by omega
    simp [inside]
  have low : (~~~c).setWidth 8 = ~~~(c.setWidth 8 : Byte) := by
    ext i h
    have inside : i < 16 := by omega
    simp [inside]
  rw [crc16Bytes, high, low]
  rfl

theorem fieldCrc_bad (e : Encoding) (k : FieldKind) (body : List Byte) :
    fieldCrc e k body true = (fieldCrc e k body false).map fun b => ~~~b :=
  crc16Bytes_not _

/-- The bytes and cells of which renders are made are those of R9, R10, R14, R15 and R186. -/
theorem cellsEncoded : CellsEncoded := by
  refine ⟨rfl, rfl, fun k => ?mfmMark, fun k => ?fmMark, fun body => ⟨by decide +kernel, rfl, rfl, rfl, rfl, rfl, rfl⟩,
    fieldCrc_bad, crc16_append_crc16Bytes, by decide +kernel, fun e prev v i h => ?plain, byteCells_syncMarks,
    fun e prev clock v i h => byteCells_fmMark e prev clock v h⟩
  case mfmMark => cases k <;> rfl
  case fmMark => cases k <;> rfl
  case plain =>
    refine ⟨length_byteCells e prev _, byteCells_plain_data e prev v h, ?_⟩
    cases e with
    | mfm => exact byteCells_mfm_clock prev v h
    | fm => exact byteCells_fm_clock prev v h

/-! ### Cells laid over a ring (R80) -/

/-- A ring read from another position on. -/
def turned (ring : List Bool) (pos : Nat) : List Bool := ring.drop pos ++ ring.take pos

theorem length_turned (ring : List Bool) (pos : Nat) : (turned ring pos).length = ring.length := by
  rw [turned, List.length_append, List.length_drop, List.length_take]
  omega

theorem getElem?_turned {ring : List Bool} {pos j : Nat} (hpos : pos ≤ ring.length) (hj : j < ring.length) :
    (turned ring pos)[j]? = ring[(pos + j) % ring.length]? := by
  by_cases before : j < ring.length - pos
  · have here : (pos + j) % ring.length = pos + j := Nat.mod_eq_of_lt (by omega)
    rw [turned, List.getElem?_append_left (by rw [List.length_drop]; exact before), List.getElem?_drop, here]
  · have past : (pos + j) % ring.length = j - (ring.length - pos) := by
      rw [Nat.mod_eq_sub_mod (by omega), Nat.mod_eq_of_lt (by omega)]
      omega
    rw [turned, List.getElem?_append_right (by rw [List.length_drop]; omega), List.length_drop,
      List.getElem?_take_of_lt (by omega), past]

/-- A ring with cells laid from position `pos` on, read from there. -/
def laidFrom (ring : List Bool) (pos : Nat) (laid : List Bool) : List Bool :=
  laid ++ (turned ring pos).drop laid.length

theorem length_laidFrom {ring laid : List Bool} (pos : Nat) (short : laid.length ≤ ring.length) :
    (laidFrom ring pos laid).length = ring.length := by
  rw [laidFrom, List.length_append, List.length_drop, length_turned]
  omega

/-- Cells laid over a ring are laid over the ring turned to where they start, which is then turned back. -/
theorem layOver_eq_turned {ring laid : List Bool} (pos : Nat) (short : laid.length ≤ ring.length) :
    layOver ring pos laid = turned (laidFrom ring pos laid) (ring.length - pos) := by
  rw [layOver, List.take_of_length_le short]
  rfl

theorem length_layOver {ring laid : List Bool} (pos : Nat) (short : laid.length ≤ ring.length) :
    (layOver ring pos laid).length = ring.length := by
  rw [layOver_eq_turned pos short, length_turned, length_laidFrom pos short]

/-- The cell j positions on from the start, past the last position on from 0. -/
theorem getElem?_layOver {ring laid : List Bool} {pos j : Nat} (hpos : pos < ring.length)
    (short : laid.length ≤ ring.length) (hj : j < ring.length) :
    (layOver ring pos laid)[(pos + j) % ring.length]? = (laidFrom ring pos laid)[j]? := by
  have whole := length_laidFrom pos short
  have back : (ring.length - pos + (pos + j) % ring.length) % ring.length = j := by
    rw [Nat.add_mod_mod, show ring.length - pos + (pos + j) = j + ring.length by omega, Nat.add_mod_right,
      Nat.mod_eq_of_lt hj]
  have inside : (pos + j) % ring.length < ring.length := Nat.mod_lt _ (by omega)
  rw [layOver_eq_turned pos short, getElem?_turned (by omega) (by omega), whole, back]

theorem layOver_laid {ring laid : List Bool} {pos j : Nat} (hpos : pos < ring.length)
    (short : laid.length ≤ ring.length) (hj : j < laid.length) :
    (layOver ring pos laid)[(pos + j) % ring.length]? = laid[j]? := by
  rw [getElem?_layOver hpos short (by omega), laidFrom, List.getElem?_append_left hj]

theorem layOver_left {ring laid : List Bool} {pos j : Nat} (hpos : pos < ring.length)
    (past : laid.length ≤ j) (hj : j < ring.length) :
    (layOver ring pos laid)[(pos + j) % ring.length]? = ring[(pos + j) % ring.length]? := by
  rw [getElem?_layOver hpos (by omega) hj, laidFrom, List.getElem?_append_right past, List.getElem?_drop,
    Nat.add_sub_cancel' past, getElem?_turned (by omega) hj]

end Sys2Proof.Machine
end

