-- ==== Sys2Proof/Proofs/TrackLayout.lean ====
section
/-! SUPPORT. The bytes of a render, their lengths, and the layout rows that say where they stand (R10 to R12, R16,
R17); with chapter 1's statement about revolutions. -/

namespace Sys2Proof.Machine

/-! ### Lengths of the parts (R10 to R12) -/

@[simp] theorem length_plainBytes (bs : List Byte) : (plainBytes bs).length = bs.length := List.length_map _

@[simp] theorem length_fillBytes (e : Encoding) (n : Nat) : (fillBytes e n).length = n := List.length_replicate

@[simp] theorem length_syncBytes (e : Encoding) : (syncBytes e).length = syncLength e := List.length_replicate

@[simp] theorem length_markBytes (e : Encoding) (k : FieldKind) : (markBytes e k).length = markLength e := by
  cases e <;> cases k <;> rfl

@[simp] theorem length_fieldCrc (e : Encoding) (k : FieldKind) (body : List Byte) (bad : Bool) :
    (fieldCrc e k body bad).length = 2 := rfl

/-- The ID part, its body and CRC as one run of ordinary bytes (R11). -/
theorem renderId_eq (t : Sectored) (x : SectorEntry) :
    renderId t x = List.replicate (syncLength t.encoding) (.plain 0#8) ++ markBytes t.encoding .id
      ++ ([x.c, x.h, x.r, x.n] ++ fieldCrc t.encoding .id [x.c, x.h, x.r, x.n] x.idCrcBad).map .plain
      ++ List.replicate t.gap2 (.plain (fillByte t.encoding)) := by
  rw [List.map_append, ← List.append_assoc]
  rfl

/-- The data part of a sector that has one, its data and CRC as one run of ordinary bytes (R11). -/
theorem renderData_eq {t : Sectored} {x : SectorEntry} {bs : List Byte} (h : x.data = some bs) :
    renderData t x = List.replicate (syncLength t.encoding) (.plain 0#8) ++ markBytes t.encoding x.mark.fieldKind
      ++ (bs ++ fieldCrc t.encoding x.mark.fieldKind bs x.dataCrcBad).map .plain
      ++ List.replicate t.gap3 (.plain (fillByte t.encoding)) := by
  rw [renderData, h, List.map_append, ← List.append_assoc]
  rfl

theorem length_renderId (t : Sectored) (x : SectorEntry) :
    (renderId t x).length = idPartLength t.encoding + t.gap2 := by
  simp only [renderId, idPartLength, List.length_append, length_syncBytes, length_markBytes, length_plainBytes,
    length_fieldCrc, length_fillBytes, List.length_cons, List.length_nil]

theorem length_renderData_of_some {t : Sectored} {x : SectorEntry} {bs : List Byte} (h : x.data = some bs) :
    (renderData t x).length = dataPartLength t.encoding bs.length + t.gap3 := by
  simp [renderData, h, dataPartLength, Nat.add_assoc]

theorem sectorLength_of_none {t : Sectored} {x : SectorEntry} (h : x.data = none) :
    sectorLength t x = idPartLength t.encoding + t.gap2 := by
  simp [sectorLength, h]

theorem sectorLength_of_some {t : Sectored} {x : SectorEntry} {bs : List Byte} (h : x.data = some bs) :
    sectorLength t x = idPartLength t.encoding + t.gap2 + (dataPartLength t.encoding bs.length + t.gap3) := by
  simp [sectorLength, h]

theorem length_renderSector (t : Sectored) (x : SectorEntry) :
    (renderId t x ++ renderData t x).length = sectorLength t x := by
  rw [List.length_append, length_renderId]
  cases h : x.data with
  | none => simp [sectorLength_of_none h, renderData, h]
  | some bs => rw [length_renderData_of_some h, sectorLength_of_some h]

theorem length_renderLead (t : Sectored) : (renderLead t).length = leadLength t := by
  cases h : t.gap1 <;> simp [renderLead, leadLength, h, Nat.add_assoc]

/-- The bytes of sectors, one after another (R11). -/
def renderSectors (t : Sectored) (xs : List SectorEntry) : List RenderByte :=
  xs.flatMap fun x => renderId t x ++ renderData t x

theorem renderElements_eq (t : Sectored) : renderElements t = renderLead t ++ renderSectors t t.sectors := rfl

theorem length_renderSectors (t : Sectored) (xs : List SectorEntry) :
    (renderSectors t xs).length = (xs.map (sectorLength t)).sum := by
  simp only [renderSectors, List.length_flatMap, length_renderSector]

theorem length_renderElements (t : Sectored) :
    (renderElements t).length = leadLength t + (t.sectors.map (sectorLength t)).sum := by
  rw [renderElements_eq, List.length_append, length_renderLead, length_renderSectors]

theorem closingGap_le_sectorLength (t : Sectored) (x : SectorEntry) : closingGap t x ≤ sectorLength t x := by
  cases h : x.data <;> simp only [closingGap, sectorLength, h] <;> omega

/-- The elements end with the closing gap, which the required length leaves out (R12). -/
theorem length_renderElements_of_getLast? {t : Sectored} {x : SectorEntry} (h : t.sectors.getLast? = some x) :
    (renderElements t).length = requiredLength t + closingGap t x := by
  have held : sectorLength t x ≤ (t.sectors.map (sectorLength t)).sum := by
    obtain ⟨before, split⟩ := List.getLast?_eq_some_iff.mp h
    rw [split, List.map_append, List.sum_append_nat]
    exact Nat.le_add_left _ _
  have gap := closingGap_le_sectorLength t x
  simp only [length_renderElements, requiredLength, h]
  omega

theorem length_renderElements_of_nil {t : Sectored} (h : t.sectors = []) :
    (renderElements t).length = requiredLength t := by
  simp [length_renderElements, requiredLength, h]

theorem closingGap_eq (t : Sectored) (x : SectorEntry) :
    closingGap t x = if x.data = none then t.gap2 else t.gap3 := by
  cases h : x.data <;> simp [closingGap, h]

/-! ### The bytes of a render and their cells (R9, R11 to R13) -/

theorem renderBytes_eq (t : Sectored) :
    renderBytes t = (renderElements t).take (t.cells / 16)
      ++ List.replicate (t.cells / 16 - (renderElements t).length) (.plain (fillByte t.encoding)) := by
  have left : t.cells / 16 - min (t.cells / 16) (renderElements t).length
      = t.cells / 16 - (renderElements t).length := by omega
  rw [renderBytes, bytesPerRev, List.length_take, left, fillBytes]

theorem length_renderBytes (t : Sectored) : (renderBytes t).length = bytesPerRev t.cells := by
  rw [renderBytes_eq, List.length_append, List.length_take, List.length_replicate, bytesPerRev]
  omega

theorem length_renderCells (t : Sectored) : (renderCells t).length = t.cells :=
  length_ringCells _ _ _ (length_renderBytes t)

/-- Byte i of a render stands in its sixteen cells after the data bit before it, which for the first byte is the last
one of the revolution (R9, R13). -/
theorem renderCells_byte (t : Sectored) {i : Nat} {b : RenderByte} (h : (renderBytes t)[i]? = some b) :
    ∃ prev, ((renderCells t).drop (16 * i)).take 16 = byteCells t.encoding prev b
      ∧ (∀ j b', i = j + 1 → (renderBytes t)[j]? = some b' → prev = b'.lastBit)
      ∧ (i = 0 → t.cells % 16 < 2 → ∀ b', (renderBytes t).getLast? = some b' → prev = b'.lastBit)
      ∧ (i = 0 → 2 ≤ t.cells % 16 → prev = (fillByte t.encoding).getLsbD (8 - t.cells % 16 / 2)) := by
  refine ⟨_, ringCells_byte h, ?later, ?firstFew, ?firstMany⟩
  case later =>
    rintro j b' rfl hb'
    exact runLastBit_take_succ hb'
  case firstFew =>
    rintro rfl few b' hb'
    exact ringLastBit_of_getLast? few hb'
  case firstMany =>
    rintro rfl many
    exact ringLastBit_of_remaining many

theorem take_renderElements_gap4a (t : Sectored) :
    (renderElements t).take t.gap4a = List.replicate t.gap4a (.plain (fillByte t.encoding)) := by
  rw [renderElements_eq, renderLead, List.append_assoc]
  exact List.take_left' (length_fillBytes t.encoding t.gap4a)

/-- The index mark part follows gap4a (R11). -/
theorem renderElements_indexPart {t : Sectored} {g : Nat} (h : t.gap1 = some g) :
    ((renderElements t).drop t.gap4a).take (syncLength t.encoding + markLength t.encoding + g)
      = syncBytes t.encoding ++ markBytes t.encoding .indexMark ++ fillBytes t.encoding g := by
  rw [renderElements_eq, renderLead, h, List.append_assoc, List.drop_left' (length_fillBytes _ _)]
  exact List.take_left' (by simp [Nat.add_assoc])

/-! ### Where a sector stands (R16, R17) -/

/-- The byte at which the k-th sector of a list starts, the first starting at byte `off`. -/
def sectorStart (t : Sectored) (off : Nat) (xs : List SectorEntry) (k : Nat) : Nat :=
  off + ((xs.take k).map (sectorLength t)).sum

theorem sectorStart_succ {t : Sectored} {off k : Nat} {xs : List SectorEntry} {x : SectorEntry}
    (h : xs[k]? = some x) : sectorStart t off xs (k + 1) = sectorStart t off xs k + sectorLength t x := by
  simp [sectorStart, List.take_add_one, h, Nat.add_assoc]

/-- The bytes from a sector's start on are its own, then those of the sectors after it. -/
theorem drop_renderElements_sectorStart {t : Sectored} {k : Nat} {x : SectorEntry} (h : t.sectors[k]? = some x) :
    (renderElements t).drop (sectorStart t (leadLength t) t.sectors k)
      = renderId t x ++ (renderData t x ++ renderSectors t (t.sectors.drop (k + 1))) := by
  obtain ⟨hk, rfl⟩ := List.getElem?_eq_some_iff.mp h
  have cut : renderSectors t t.sectors = renderSectors t (t.sectors.take k)
      ++ (renderId t t.sectors[k] ++ renderData t t.sectors[k] ++ renderSectors t (t.sectors.drop (k + 1))) := by
    conv => lhs; rw [← List.take_append_drop k t.sectors, List.drop_eq_getElem_cons hk]
    simp only [renderSectors, List.flatMap_append, List.flatMap_cons]
  rw [renderElements_eq, cut, ← List.append_assoc, List.append_assoc (renderId _ _)]
  exact List.drop_left' (by rw [List.length_append, length_renderLead, length_renderSectors]; rfl)

/-- The layout row of a sector that starts at byte `off`, the last of its track or not (R16, R17). -/
def sectorRow (t : Sectored) (off : Nat) (x : SectorEntry) (last : Prop) [Decidable last] : LayoutRow :=
  let idEnd := off + idPartLength t.encoding
  let mark := idEnd + t.gap2 + syncLength t.encoding
  let len := match x.data with
    | some bs => bs.length
    | none => dataLength x.n.toNat
  { idSyncStart := off * 16, idEnd := idEnd * 16, dataMarkStart := mark * 16
    dataEnd := (mark + markLength t.encoding + len + 2) * 16
    nextIdSyncStart := if last then t.cells else (off + sectorLength t x) * 16 }

theorem sectorRow_dataEnd_of_some {t : Sectored} {off : Nat} {x : SectorEntry} {bs : List Byte} {last : Prop}
    [Decidable last] (h : x.data = some bs) :
    (sectorRow t off x last).dataEnd
      = (off + idPartLength t.encoding + t.gap2 + syncLength t.encoding + markLength t.encoding + bs.length + 2)
        * 16 := by
  rw [sectorRow, h]

/-- The layout rows are those of the sectors, each from the byte at which it starts. -/
theorem getElem?_layoutRows (t : Sectored) (off : Nat) (xs : List SectorEntry) (k : Nat) :
    (layoutRows t off xs)[k]? = xs[k]?.map fun x => sectorRow t (sectorStart t off xs k) x (k + 1 = xs.length) := by
  induction xs generalizing off k with
  | nil => rfl
  | cons x xs ih =>
    cases k with
    | zero => cases xs <;> rfl
    | succ k =>
      have start : sectorStart t (off + sectorLength t x) xs k = sectorStart t off (x :: xs) (k + 1) := by
        simp [sectorStart, Nat.add_assoc]
      simp only [layoutRows, List.getElem?_cons_succ, ih, start, List.length_cons, Nat.add_right_cancel_iff]

theorem getElem?_layoutTable {t : Sectored} {k : Nat} {x : SectorEntry} (h : t.sectors[k]? = some x) :
    (layoutTable t)[k]?
      = some (sectorRow t (sectorStart t (leadLength t) t.sectors k) x (k + 1 = t.sectors.length)) := by
  rw [layoutTable, getElem?_layoutRows, h, Option.map_some]

theorem length_layoutRows (t : Sectored) (off : Nat) (xs : List SectorEntry) :
    (layoutRows t off xs).length = xs.length := by
  induction xs generalizing off with
  | nil => rfl
  | cons x xs ih => exact congrArg Nat.succ (ih _)

/-- The next row starts where this one's sector ends (R16). -/
theorem layoutTable_next_start {t : Sectored} {k : Nat} {x : SectorEntry} {row' : LayoutRow}
    (h : t.sectors[k]? = some x) (hrow' : (layoutTable t)[k + 1]? = some row') :
    row'.idSyncStart = (sectorStart t (leadLength t) t.sectors k + sectorLength t x) * 16 := by
  rw [layoutTable, getElem?_layoutRows] at hrow'
  obtain ⟨y, -, rfl⟩ := Option.map_eq_some_iff.mp hrow'
  rw [← sectorStart_succ h]
  rfl

/-- The ID part stands from the sector's start (R10, R11, R14, R15). -/
theorem take_renderElements_id {t : Sectored} {k : Nat} {x : SectorEntry} (h : t.sectors[k]? = some x) :
    ((renderElements t).drop (sectorStart t (leadLength t) t.sectors k)).take (idPartLength t.encoding + t.gap2)
      = renderId t x := by
  rw [drop_renderElements_sectorStart h]
  exact List.take_left' (length_renderId t x)

/-- The data part stands after the ID part. -/
theorem take_renderElements_data {t : Sectored} {k : Nat} {x : SectorEntry} {bs : List Byte}
    (h : t.sectors[k]? = some x) (hbs : x.data = some bs) :
    ((renderElements t).drop (sectorStart t (leadLength t) t.sectors k + (idPartLength t.encoding + t.gap2))).take
        (dataPartLength t.encoding bs.length + t.gap3) = renderData t x := by
  rw [← List.drop_drop, drop_renderElements_sectorStart h, List.drop_left' (length_renderId t x)]
  exact List.take_left' (length_renderData_of_some hbs)

/-- Every sector stands where its layout row says, with the bytes of its parts (R10 to R12, R14 to R17). -/
theorem sectorRendered {t : Sectored} {k : Nat} {x : SectorEntry} {row : LayoutRow} (hx : t.sectors[k]? = some x)
    (hrow : (layoutTable t)[k]? = some row) : SectorRendered t k x row := by
  rw [getElem?_layoutTable hx] at hrow
  obtain rfl := Option.some.inj hrow
  let start := sectorStart t (leadLength t) t.sectors k
  have lengths : idPartLength t.encoding = syncLength t.encoding + markLength t.encoding + 6 := rfl
  unfold SectorRendered
  intro bytes sync marks at_ mark len
  refine ⟨Nat.mul_mod_left _ 16, ?first, ?idEnd, ?dataMark, ?dataEnd, ?last, ?next, ?idPart, ?dataPart⟩
  case first =>
    rintro rfl
    exact Nat.mul_comm _ 16
  case idEnd =>
    show (_ + idPartLength t.encoding) * 16 = _ * 16 + 16 * (syncLength t.encoding + markLength t.encoding + 6)
    omega
  case dataMark =>
    show (_ + t.gap2 + syncLength t.encoding) * 16 = _ * 16 + 16 * (t.gap2 + syncLength t.encoding)
    omega
  case dataEnd =>
    show (_ + markLength t.encoding + len + 2) * 16 = _ * 16 + 16 * (markLength t.encoding + len + 2)
    omega
  case last => exact fun last => if_pos last
  case next =>
    intro notLast
    have next : (sectorRow t start x (k + 1 = t.sectors.length)).nextIdSyncStart = (start + sectorLength t x) * 16 :=
      if_neg (Nat.ne_of_lt notLast)
    refine ⟨fun hnone => ?_, fun hsome => ?_, fun row' hrow' => (layoutTable_next_start hx hrow').trans next.symm⟩
    · rw [next, sectorLength_of_none hnone]
      show _ = (start + idPartLength t.encoding) * 16 + 16 * t.gap2
      omega
    · obtain ⟨bs, hbs⟩ := Option.ne_none_iff_exists'.mp hsome
      rw [next, sectorLength_of_some hbs, sectorRow_dataEnd_of_some hbs, dataPartLength]
      omega
  case idPart =>
    show List.take _ (List.drop (start * 16 / 16) (renderElements t)) = _
    rw [Nat.mul_div_cancel _ (by decide)]
    exact (take_renderElements_id hx).trans (renderId_eq t x)
  case dataPart =>
    intro bs hbs
    have cell : ((start + idPartLength t.encoding) * 16 + 16 * t.gap2) / 16
        = start + (idPartLength t.encoding + t.gap2) := by omega
    have hlen : len = bs.length := by simp only [len, hbs]
    show List.take _ (List.drop (((start + idPartLength t.encoding) * 16 + 16 * t.gap2) / 16) (renderElements t)) = _
    rw [cell, hlen]
    exact (take_renderElements_data hx hbs).trans (renderData_eq hbs)

/-- Settles O42: the lengths of R2, R9 and R59, the bytes and cells of `cellsEncoded`, each sector at its layout row by
`sectorRendered`, the render's bytes and cells, and R80's overlay as a turn of the ring. -/
theorem revolutionsKeepTheirCells : Obligations.RevolutionsKeepTheirCells := by
  refine ⟨length_renderCells, length_blankCells, rfl, rfl, rfl, rfl, rfl, rfl, cellsEncoded,
    fun t k x row => sectorRendered, fun t => ⟨length_layoutRows t _ _, take_renderElements_gap4a t, ?indexPart,
      fun x last => ?lastSector, length_renderElements_of_nil, decide_eq_true_iff, renderBytes_eq t,
      fun i b => renderCells_byte t⟩,
    fun ring laid pos hpos short => ⟨length_layOver pos short, fun j => layOver_laid hpos short,
      fun j => layOver_left hpos⟩⟩
  case indexPart =>
    intro g hg
    refine ⟨_, rfl, ?_⟩
    have sync : (if t.encoding = .mfm then 12 else 6) = syncLength t.encoding := by cases t.encoding <;> rfl
    rw [sync, List.length_replicate, length_markBytes]
    exact renderElements_indexPart hg
  case lastSector =>
    rw [length_renderElements_of_getLast? last, closingGap_eq]

end Sys2Proof.Machine
end

