-- ==== Sys2Proof/Proofs/IndexAndRead.lean ====
section
/-! SUPPORT. When the outputs that follow the rotation are driven: INDEX (R49) and RDATA (R58 to R62). -/

namespace Sys2Proof.Machine

/-! ### What the outputs read -/

/-- An output is asserted for the selected drive of a powered part, or not at all (R23). -/
theorem State.output_eq_true_iff (s : State) (f : Drive → Bool) :
    s.output f = true ↔ s.powered = true ∧ ∃ d, s.selected = some d ∧ f d = true := by
  cases h : s.selected <;> simp [State.output, h]

theorem State.output_of_selected {s : State} {d : Drive} (hp : s.powered = true) (hd : s.selected = some d)
    (f : Drive → Bool) : s.output f = f d := by
  simp [State.output, hp, hd]

theorem State.isHeld_eq_false_iff (s : State) :
    s.isHeld = false ↔ ∀ k d n, s.rotation.hold ≠ .held k d n := by
  cases h : s.rotation.hold <;> simp [State.isHeld, h]

/-- INDEX and RDATA may be driven in RUN, DRAIN and QUIET (R49, R61). -/
theorem State.turnsOutward_iff (s : State) :
    s.turnsOutward = true ↔ s.power.state = .run ∨ s.power.state = .drain ∨ s.power.state = .quiet := by
  cases h : s.power.state <;> simp [State.turnsOutward, State.isFailing, h]

theorem DriveUnit.isPresent_iff (u : DriveUnit) : u.isPresent = true ↔ u.media = .present := decide_eq_true_iff

theorem DriveUnit.isAtSpeed_iff (u : DriveUnit) : u.isAtSpeed = true ↔ u.spindle = .atSpeed := decide_eq_true_iff

theorem DriveUnit.isSettled_iff (u : DriveUnit) : u.isSettled = true ↔ u.motion = .settled := decide_eq_true_iff

theorem DriveUnit.qualifies_iff (u : DriveUnit) :
    u.qualifies = true ↔ u.media = .present ∧ u.spindle = .atSpeed ∧ u.motion = .settled := by
  rw [DriveUnit.qualifies, Bool.and_eq_true, Bool.and_eq_true, u.isPresent_iff, u.isAtSpeed_iff, u.isSettled_iff,
    and_assoc]

theorem State.inIndexWindow_iff (s : State) :
    s.inIndexWindow = true ↔ s.rotation.position * 50 < s.rotation.cells := decide_eq_true_iff

/-- The drive's part of R49's conditions for INDEX stands apart from what the whole part must satisfy. -/
theorem State.index_eq_true_iff (s : State) :
    s.index = true ↔ s.powered = true ∧ s.rotation.position * 50 < s.rotation.cells
      ∧ (∃ d, s.selected = some d ∧ (s.drive d).media = .present ∧ (s.drive d).spindle = .atSpeed)
      ∧ s.isHeld = false ∧ s.turnsOutward = true := by
  simp only [State.index, State.output_eq_true_iff, Bool.and_eq_true, Bool.not_eq_true', s.inIndexWindow_iff,
    DriveUnit.isPresent_iff, DriveUnit.isAtSpeed_iff]
  constructor
  · rintro ⟨powered, d, selected, ⟨⟨⟨window, present⟩, atSpeed⟩, free⟩, outward⟩
    exact ⟨powered, window, ⟨d, selected, present, atSpeed⟩, free, outward⟩
  · rintro ⟨powered, window, ⟨d, selected, present, atSpeed⟩, free, outward⟩
    exact ⟨powered, d, selected, ⟨⟨⟨window, present⟩, atSpeed⟩, free⟩, outward⟩

/-- R61's conditions for the read stream, those of the drive together. -/
theorem State.streams_eq_true_iff (s : State) :
    s.streams = true ↔ s.powered = true ∧ (∃ d, s.selected = some d ∧ (s.drive d).qualifies = true)
      ∧ s.lines.wgate = false ∧ s.isHeld = false ∧ s.turnsOutward = true := by
  simp only [State.streams, State.output_eq_true_iff, Bool.and_eq_true, Bool.not_eq_true']
  constructor
  · rintro ⟨powered, d, selected, ⟨⟨qualifies, wgate⟩, free⟩, outward⟩
    exact ⟨powered, ⟨d, selected, qualifies⟩, wgate, free, outward⟩
  · rintro ⟨powered, ⟨d, selected, qualifies⟩, wgate, free, outward⟩
    exact ⟨powered, d, selected, ⟨⟨qualifies, wgate⟩, free⟩, outward⟩

/-- RDATA is released while it does not stream (R61). -/
theorem State.rdata_of_not_streams {s : State} (h : s.streams = false) : s.rdata = false := by
  rw [State.rdata, h, Bool.false_and]

theorem State.servedCells_of_entry {s : State} {d : Drive} {k : Key} {e : CatalogueEntry} (hk : s.keyOf d = some k)
    (he : s.entry k.image = some e) : s.servedCells d = ((s.recordOf k).getD .empty).cellsOf e := by
  simp [State.servedCells, hk, he, State.servedRecord]

/-- The cell RDATA emits while it streams: that of the served content at the counter's position (R58, R62). -/
theorem State.rdata_of_streams {s : State} {d : Drive} (h : s.streams = true) (hd : s.selected = some d) :
    s.rdata = (s.servedCells d).getD s.rotation.position false := by
  rw [State.rdata, h, Bool.true_and, State.output_of_selected (s.streams_eq_true_iff.mp h).1 hd]

/-! ### The obligations -/

/-- Settles O18: each of R49's conditions read off `State.index_eq_true_iff`. -/
theorem indexConditions : Obligations.IndexConditions := by
  intro s powered
  rw [s.index_eq_true_iff, s.isHeld_eq_false_iff, s.turnsOutward_iff]
  exact and_iff_right powered

/-- Settles O19: R61's conditions by `State.streams_eq_true_iff`, the cell by `State.rdata_of_streams`. -/
theorem readDataConditions : Obligations.ReadDataConditions := by
  intro s powered
  refine ⟨?conditions, State.rdata_of_not_streams, fun d k e streams selected key entry => ?cell⟩
  case conditions =>
    simp only [s.streams_eq_true_iff, s.isHeld_eq_false_iff, s.turnsOutward_iff, DriveUnit.qualifies_iff]
    exact and_iff_right powered
  case cell =>
    rw [State.rdata_of_streams streams selected, State.servedCells_of_entry key entry]

end Sys2Proof.Machine
end

