-- ==== Sys2Proof/Proofs/TrackReactions.lean ====
section
/-! SUPPORT. What the end of a command leaves of the counter, the captures and the held keys (R45 to R55): in a state
that its rules do not disturb only the hold state follows. -/

namespace Sys2Proof.Machine

/-! ### What the turning track holds -/

/-- The counter, the governing track and the hold state; the captures; the held-key sets. -/
structure Turning where
  rotation : Rotation
  capture : CaptureUnit
  heldA : List Key
  heldB : List Key

/-- The part of a state that turns. -/
def State.turning (s : State) : Turning :=
  { rotation := s.rotation, capture := s.capture, heldA := s.driveA.heldKeys, heldB := s.driveB.heldKeys }

theorem State.rotation_of_turning {s t : State} (h : t.turning = s.turning) : t.rotation = s.rotation :=
  congrArg Turning.rotation h

theorem State.capture_of_turning {s t : State} (h : t.turning = s.turning) : t.capture = s.capture :=
  congrArg Turning.capture h

theorem State.heldKeys_of_turning {s t : State} (h : t.turning = s.turning) (d : Drive) :
    (t.drive d).heldKeys = (s.drive d).heldKeys := by
  cases d
  · exact congrArg Turning.heldA h
  · exact congrArg Turning.heldB h

theorem OnlyLoads.turning {s t : State} (h : OnlyLoads s t) : t.turning = s.turning := by
  obtain ⟨l, rfl⟩ := h; rfl

theorem State.turning_followServing (s0 s : State) : (State.followServing s0 s).turning = s.turning := by
  obtain ⟨l, h⟩ := State.followServing_changes s0 s; rw [h]; rfl

theorem State.turning_followPages (s0 s : State) : (State.followPages s0 s).turning = s.turning := by
  obtain ⟨p, h, -⟩ := State.followPages_changes s0 s; rw [h]; rfl

/-! ### The drain and the closing of the volume, no restart in progress -/

/-- From a state with no restart in progress, `t` has none either and differs in the power unit and the pending volume
state write alone. -/
def OnlyCloses (s t : State) : Prop :=
  s.power.job.isRestart = false →
    t.power.job.isRestart = false ∧ ∃ p w, t = { s with power := p, volume.pendingWrite := w }

theorem OnlyCloses.refl (s : State) : OnlyCloses s s := fun h => ⟨h, s.power, s.volume.pendingWrite, rfl⟩

theorem OnlyCloses.trans {s t u : State} (h : OnlyCloses s t) (k : OnlyCloses t u) : OnlyCloses s u := by
  intro hs
  obtain ⟨ht, p, w, rfl⟩ := h hs
  obtain ⟨hu, q, x, rfl⟩ := k ht
  exact ⟨hu, q, x, rfl⟩

theorem OnlyCloses.of_power (s : State) (p : Power) (h : p.job.isRestart = s.power.job.isRestart) :
    OnlyCloses s { s with power := p } := fun hs => ⟨h.trans hs, p, s.volume.pendingWrite, rfl⟩

theorem OnlyWrite.closes {s t : State} (h : OnlyWrite s t) : OnlyCloses s t := by
  obtain ⟨w, rfl⟩ := h
  exact fun hs => ⟨hs, s.power, w, rfl⟩

theorem State.afterClose_closes (s : State) : OnlyCloses s s.afterClose := by
  simp only [State.afterClose]
  split <;> rename_i hj
  · exact .of_power s _ (by rw [hj]; rfl)
  · exact .of_power s _ (by rw [hj]; rfl)
  · exact fun hs => by rw [hj] at hs; cases hs
  · exact .refl s

theorem State.closeVolume_closes (s : State) : OnlyCloses s s.closeVolume := by
  simp only [State.closeVolume]
  split
  · exact s.afterClose_closes
  · have write := s.requestWrite_changes .clean
    exact write.closes.trans (.of_power _ _ (by rw [Job.isRestart_closing, write.power]))

theorem State.followDrainEnd_closes (s : State) : OnlyCloses s s.followDrainEnd := by
  have ended : OnlyCloses s { s with power.flsh := false } := .of_power s _ rfl
  simp only [State.followDrainEnd]
  split
  · split
    · exact ended.trans (State.closeVolume_closes _)
    · exact ended
  · exact .refl s

theorem State.followClose_closes (s : State) : OnlyCloses s s.followClose := by
  simp only [State.followClose]
  split
  · exact s.afterClose_closes
  · exact .refl s

theorem State.followSleep_closes (s : State) : OnlyCloses s s.followSleep := by
  simp only [State.followSleep]
  split
  · rename_i h
    exact .of_power s _ (by rw [h.1]; rfl)
  · exact .refl s

theorem State.followDrain_closes (s : State) : OnlyCloses s s.followDrain :=
  (s.dropBarredWrite_changes.trans (State.requestMarker_changes _)).closes.trans
    ((State.followDrainEnd_closes _).trans ((State.followClose_closes _).trans (State.followSleep_closes _)))

/-! ### The rules of the cable and of the card -/

/-- With no mount request waiting there is none to decide. -/
theorem State.decideDeferred_of_nil {s : State} (h : s.volume.deferred = []) : s.decideDeferred = s := by
  have cleared : ({ s with volume.deferred := [] } : State) = s := by rw [← h]
  simp only [State.decideDeferred]
  split
  · rfl
  · rw [h, List.foldl_nil, cleared]

/-- A spindle that agrees with its motor demand stays as it is (R30, R31). -/
theorem spindleUnder_of_agrees {failing demand : Bool} {x : Spindle} (ms : Nat)
    (h : x = .stopped ↔ failing = true ∨ demand = false) : spindleUnder failing demand ms x = x := by
  unfold spindleUnder
  split
  · rename_i stops
    exact (h.mpr (by simpa using stops)).symm
  · rename_i runs
    cases x with
    | stopped => exact absurd (h.mp rfl) (by simpa using runs)
    | spinningUp n => rfl
    | atSpeed => rfl

theorem State.followSpindles_of_follow {s : State} (h : s.spindlesFollow) : s.followSpindles = s := by
  have a : spindleUnder s.isFailing (s.motorDemand .a) s.settings.spinUpMs s.driveA.spindle = s.driveA.spindle :=
    spindleUnder_of_agrees _ (h .a)
  have b : spindleUnder s.isFailing (s.motorDemand .b) s.settings.spinUpMs s.driveB.spindle = s.driveB.spindle :=
    spindleUnder_of_agrees _ (h .b)
  simp only [State.followSpindles, a, b]

theorem State.spindlesFollow_followActivity {s : State} (h : s.spindlesFollow) : s.followActivity.spindlesFollow := by
  intro d
  have lasts := s.lasting_followActivity
  have spindle : (s.followActivity.drive d).spindle = (s.drive d).spindle := by
    cases d
    · exact congrArg (fun x => x.a.spindle) lasts
    · exact congrArg (fun x => x.b.spindle) lasts
  rw [spindle, State.isFailing_followActivity,
    State.motorDemand_congr (congrArg Lasting.lines lasts) (congrArg Lasting.settings lasts)]
  exact h d

theorem State.lasting_followCable {s : State} (s0 : State) (h : s.spindlesFollow) :
    (State.followCable s0 s).lasting = s.lasting := by
  rw [State.followCable, State.lasting_followFaultD, State.lasting_followFaultC,
    State.followSpindles_of_follow (State.spindlesFollow_followActivity h), State.lasting_followActivity]

/-- The admitted assertion's drive is still selected (R42). -/
theorem State.lostSelection_of_follows {s : State} (h : s.admissionFollows) : s.lostSelection = false := by
  unfold State.lostSelection
  split
  · rfl
  · rename_i a admitted
    exact decide_eq_false (not_not_intro (h a admitted))

/-- The admission is followed by the selection alone. -/
theorem State.lostSelection_congr {s t : State} (hc : t.cable = s.cable) (hs : t.selected = s.selected) :
    t.lostSelection = s.lostSelection := by
  simp only [State.lostSelection, hc, hs]

theorem State.turning_followCable {s : State} (s0 : State) (h : s.admissionFollows) :
    (State.followCable s0 s).turning = s.turning := by
  obtain ⟨st, n, j, c, active⟩ := s.followActivity_changes
  obtain ⟨al, faulted⟩ := State.followFaultC_changes s0 s.followActivity.followSpindles
  have kept : (State.followFaultC s0 s.followActivity.followSpindles).lostSelection = false := by
    rw [faulted, active, ← State.lostSelection_of_follows h]
    exact State.lostSelection_congr rfl (State.selected_congr rfl rfl)
  rw [State.followCable, State.followFaultD, kept, if_neg Bool.false_ne_true, faulted, active]
  rfl

theorem State.lasting_followCard (s : State) : s.followCard.lasting = s.lasting := by
  simp [State.followCard, State.followDrain, State.followCaptures]

theorem State.turning_followCard {s : State} (restart : s.power.job.isRestart = false)
    (deferred : s.volume.deferred = []) : s.followCard.turning = s.turning := by
  obtain ⟨-, p, w, drained⟩ := s.followDrain_closes restart
  have waiting : s.followDrain.volume.deferred = [] := by rw [drained]; exact deferred
  have loads := (State.followCaptures_changes s.followDrain).trans (State.dropPrefetch_changes _)
  rw [State.followCard, State.decideDeferred_of_nil deferred, State.decideDeferred_of_nil waiting, loads.turning,
    drained]
  rfl

/-! ### What the drives, the mounts and the slots decide -/

/-- Two states alike in what lasts and what is stored: selection, keys, content and residency are read off these. -/
structure SameDrives (s t : State) : Prop where
  lasting : t.lasting = s.lasting
  stored : t.stored = s.stored

section SameDrives

variable {s t : State} (h : SameDrives s t)
include h

theorem SameDrives.lines : t.lines = s.lines := congrArg Lasting.lines h.lasting

theorem SameDrives.settings : t.settings = s.settings := congrArg Lasting.settings h.lasting

theorem SameDrives.selected : t.selected = s.selected := State.selected_congr h.lines h.settings

theorem SameDrives.drive_lasting (d : Drive) : (t.drive d).lasting = (s.drive d).lasting := by
  cases d
  · exact congrArg Lasting.a h.lasting
  · exact congrArg Lasting.b h.lasting

theorem SameDrives.drive_stored (d : Drive) : (t.drive d).stored = (s.drive d).stored := by
  cases d
  · exact congrArg Stored.a h.stored
  · exact congrArg Stored.b h.stored

theorem SameDrives.qualifies (d : Drive) : (t.drive d).qualifies = (s.drive d).qualifies := by
  have media : (t.drive d).media = (s.drive d).media := congrArg StoredDrive.media (h.drive_stored d)
  have spindle : (t.drive d).spindle = (s.drive d).spindle := congrArg LastingDrive.spindle (h.drive_lasting d)
  have motion : (t.drive d).motion = (s.drive d).motion := congrArg LastingDrive.motion (h.drive_lasting d)
  simp only [DriveUnit.qualifies, DriveUnit.isPresent, DriveUnit.isAtSpeed, DriveUnit.isSettled, media, spindle, motion]

theorem SameDrives.keyOf (d : Drive) : t.keyOf d = s.keyOf d := by
  have mounted : (t.drive d).mounted = (s.drive d).mounted := congrArg StoredDrive.mounted (h.drive_stored d)
  have cylinder : (t.drive d).cylinder = (s.drive d).cylinder := congrArg LastingDrive.cylinder (h.drive_lasting d)
  simp only [State.keyOf, State.sideHead, mounted, cylinder, h.lines]

theorem SameDrives.servedKey : t.servedKey = s.servedKey := by
  simp only [State.servedKey, h.selected, funext h.keyOf]

theorem SameDrives.entry (image : Nat) : t.entry image = s.entry image := by
  rw [State.entry, State.entry, show t.volume.catalogue = s.volume.catalogue from congrArg Stored.catalogue h.stored]

theorem SameDrives.slot (i : Fin 16) : t.slot i = s.slot i := State.slot_congr (congrArg Stored.slots h.stored) i

theorem SameDrives.findSlot (k : Key) : t.findSlot k = s.findSlot k := by
  simp only [State.findSlot, h.slot]

theorem SameDrives.isKeyResident (k : Key) : t.isKeyResident k = s.isKeyResident k := by
  simp only [State.isKeyResident, State.residentSlot, h.findSlot, h.slot]

theorem SameDrives.recordOf (k : Key) : t.recordOf k = s.recordOf k := by
  simp only [State.recordOf, h.findSlot, h.slot]

theorem SameDrives.governing : t.governing = s.governing := by
  simp only [State.governing, h.servedKey, h.entry, h.recordOf]

end SameDrives

/-! ### The governing track and the hold -/

/-- A governing track in force stays (R46). -/
theorem State.followGoverning_of_follows {s : State} (h : s.governingFollows) : s.followGoverning = s := by
  unfold State.followGoverning
  split
  · rfl
  · rename_i cells rate governing
    obtain ⟨rfl, rfl⟩ := Prod.mk.inj (h _ governing)
    exact if_pos rfl

theorem mem_addHeldKey (k : Key) (ks : List Key) : k ∈ addHeldKey k ks := by
  unfold addHeldKey
  split
  · rename_i held; exact List.contains_iff_mem.mp held
  · exact List.mem_append_right _ (List.mem_singleton_self k)

@[simp] theorem State.drive_withHold (s : State) (x : Hold) (d : Drive) :
    ({ s with rotation.hold := x } : State).drive d = s.drive d := by
  cases d <;> rfl

@[simp] theorem State.drive_armHold (s : State) (d : Drive) : s.armHold.drive d = s.drive d := s.drive_withHold _ d

theorem State.mem_heldKeys_joinHeld (s : State) (d : Drive) (k : Key) : k ∈ ((s.joinHeld d k).drive d).heldKeys := by
  rw [State.joinHeld, State.drive_setDrive_self]
  exact mem_addHeldKey k _

/-- A hold whose key is still to be waited for goes on (R53). -/
theorem State.followHold_of_held {s : State} {k : Key} {d : Drive} {n : Nat} (hold : s.rotation.hold = .held k d n)
    (selected : s.selected = some d) (served : s.servedKey = some k) (qualifies : (s.drive d).qualifies = true)
    (absent : s.isKeyResident k = false) :
    s.followHold = { s.joinHeld d k with rotation.hold := .held k d n } := by
  have next : s.holdNext k d = some k := by simp [State.holdNext, selected, served, qualifies, absent]
  simp only [State.followHold, hold, next]

/-- With no hold in progress the hold state is evaluated afresh (R51). -/
theorem State.followHold_of_none {s : State} (hold : s.rotation.hold = .none) : s.followHold = s.armHold := by
  simp only [State.followHold, hold]

theorem State.armHold_of_not_armable {s : State} (h : s.armable = false) : s.armHold.rotation.hold = .none := by
  simp [State.armHold, h]

/-- A key in its drive's held-key set is not held again (R51). -/
theorem State.armable_of_heldKey {s : State} {k : Key} {d : Drive} (selected : s.selected = some d)
    (served : s.servedKey = some k) (held : k ∈ (s.drive d).heldKeys) : s.armable = false := by
  simp [State.armable, selected, served, State.canHold, held]

/-- What R51 asks of the served drive and key of an ARMED hold. -/
theorem State.armable_conditions {s : State} {k : Key} {d : Drive} (h : s.armable = true)
    (selected : s.selected = some d) (served : s.servedKey = some k) :
    (s.drive d).qualifies = true ∧ s.isKeyResident k = false := by
  simp only [State.armable, selected, served, State.canHold, Bool.and_eq_true, Bool.not_eq_true'] at h
  obtain ⟨⟨⟨-, qualifies⟩, ⟨-, absent⟩, -⟩, -⟩ := h
  exact ⟨qualifies, absent⟩

/-! ### The end of a command -/

/-- At the end of a command nothing falls due in this state but the hold: what holds from moment to moment holds, and no
mount request waits and no restart is in progress. -/
structure State.Undisturbed (s : State) : Prop where
  steady : s.steady
  spindles : s.spindlesFollow
  governing : s.governingFollows
  admission : s.admissionFollows

theorem State.undisturbed_of_followed {s : State} (steady : s.steady) (h : s.followed) : s.Undisturbed := by
  obtain ⟨spindles, governing, -, admission, -⟩ := h
  exact ⟨steady, spindles, governing, admission⟩

/-- The state at the end of a command before the rules of the turning track. -/
def State.tended (s0 s : State) : State := (State.followCable s0 s).followCard

theorem react_eq_tended (s0 s : State) :
    react s0 s = State.followPages s0 (State.followServing s0 (State.tended s0 s).followGoverning.followHold) := rfl

section Undisturbed

variable {s : State} (s0 : State) (h : s.Undisturbed)
include h

theorem State.Undisturbed.tended_sameDrives : SameDrives s (State.tended s0 s) := by
  obtain ⟨-, deferred, restart⟩ := h.steady
  have cable := State.stored_followCable s0 s restart
  have card := State.stored_followCard _ ((State.restart_of_stored cable).trans restart)
    ((State.deferred_of_stored cable).trans deferred)
  exact ⟨(State.lasting_followCard _).trans (State.lasting_followCable s0 h.spindles), card.trans cable⟩

theorem State.Undisturbed.tended_turning : (State.tended s0 s).turning = s.turning := by
  obtain ⟨-, deferred, restart⟩ := h.steady
  have cable := State.stored_followCable s0 s restart
  exact (State.turning_followCard ((State.restart_of_stored cable).trans restart)
    ((State.deferred_of_stored cable).trans deferred)).trans (State.turning_followCable s0 h.admission)

theorem State.Undisturbed.tended_rotation : (State.tended s0 s).rotation = s.rotation :=
  State.rotation_of_turning (h.tended_turning s0)

/-- Of what turns, the end of a command changes what the hold's rules change. -/
theorem State.Undisturbed.react_turning : (react s0 s).turning = (State.tended s0 s).followHold.turning := by
  have governing : (State.tended s0 s).governingFollows := fun g hg => by
    rw [h.tended_rotation s0]
    exact h.governing g ((h.tended_sameDrives s0).governing ▸ hg)
  rw [react_eq_tended, State.turning_followPages, State.turning_followServing,
    State.followGoverning_of_follows governing]

/-- The counter and the governing track stand (R45, R48). -/
theorem State.Undisturbed.react_counter :
    (react s0 s).rotation.position = s.rotation.position ∧ (react s0 s).rotation.cells = s.rotation.cells
      ∧ (react s0 s).rotation.rate = s.rotation.rate := by
  obtain ⟨hold, ka, kb, changed⟩ := (State.tended s0 s).followHold_changes
  rw [State.rotation_of_turning (h.react_turning s0), changed, ← h.tended_rotation s0]
  exact ⟨rfl, rfl, rfl⟩

/-- The captures stand. -/
theorem State.Undisturbed.react_capture : (react s0 s).capture = s.capture := by
  obtain ⟨hold, ka, kb, changed⟩ := (State.tended s0 s).followHold_changes
  rw [State.capture_of_turning (h.react_turning s0), changed, ← State.capture_of_turning (h.tended_turning s0)]

/-- A hold whose key is still to be waited for stands at the end of a command, its key in the
held-key set (R52, R53). -/
theorem State.Undisturbed.react_held {k : Key} {d : Drive} {n : Nat} (hold : s.rotation.hold = .held k d n)
    (selected : s.selected = some d) (served : s.servedKey = some k) (qualifies : (s.drive d).qualifies = true)
    (absent : s.isKeyResident k = false) :
    (react s0 s).rotation.hold = .held k d n ∧ k ∈ ((react s0 s).drive d).heldKeys := by
  have same := h.tended_sameDrives s0
  have goesOn := State.followHold_of_held ((congrArg Rotation.hold (h.tended_rotation s0)).trans hold)
    (same.selected.trans selected) (same.servedKey.trans served) ((same.qualifies d).trans qualifies)
    ((same.isKeyResident k).trans absent)
  have turning := (h.react_turning s0).trans (congrArg State.turning goesOn)
  refine ⟨by rw [State.rotation_of_turning turning], ?_⟩
  rw [State.heldKeys_of_turning turning d, State.drive_withHold]
  exact State.mem_heldKeys_joinHeld _ d k

/-- A key that has been held is not held again at the end of a command with no hold in progress (R51). -/
theorem State.Undisturbed.react_not_held_again {k : Key} {d : Drive} (hold : s.rotation.hold = .none)
    (selected : s.selected = some d) (served : s.servedKey = some k) (held : k ∈ (s.drive d).heldKeys) :
    (react s0 s).rotation.hold = .none ∧ k ∈ ((react s0 s).drive d).heldKeys := by
  have same := h.tended_sameDrives s0
  have keys := State.heldKeys_of_turning (h.tended_turning s0) d
  have unarmed : (State.tended s0 s).armable = false :=
    State.armable_of_heldKey (same.selected.trans selected) (same.servedKey.trans served) (keys ▸ held)
  have afresh := State.followHold_of_none ((congrArg Rotation.hold (h.tended_rotation s0)).trans hold)
  have turning := (h.react_turning s0).trans (congrArg State.turning afresh)
  refine ⟨by rw [State.rotation_of_turning turning, State.armHold_of_not_armable unarmed], ?_⟩
  rw [State.heldKeys_of_turning turning d, State.drive_armHold, keys]
  exact held

end Undisturbed

end Sys2Proof.Machine
end

