-- ==== Sys2Proof/Proofs/RotationCommands.lean ====
section
/-! SUPPORT. The commands of the Rotation Unit: cell times, arrivals at index, the end of the INDEX window, the hold
limit (R45, R49, R52, R55). Each changes what turns and nothing else. -/

namespace Sys2Proof.Machine

/-! ### What the Rotation Unit changes -/

/-- `t` is `s` but for the counter's position, the hold state, the capture buffers, the held-key sets and the
latches. -/
def OnlyTurns (s t : State) : Prop :=
  ∃ p h buf1 buf2 ka kb al, t = { s with
    rotation.position := p
    rotation.hold := h
    capture.buf1 := buf1
    capture.buf2 := buf2
    driveA.heldKeys := ka
    driveB.heldKeys := kb
    alerts := al }

theorem OnlyTurns.refl (s : State) : OnlyTurns s s :=
  ⟨s.rotation.position, s.rotation.hold, s.capture.buf1, s.capture.buf2, s.driveA.heldKeys, s.driveB.heldKeys, s.alerts,
    rfl⟩

theorem OnlyTurns.trans {s t u : State} (h : OnlyTurns s t) (k : OnlyTurns t u) : OnlyTurns s u := by
  obtain ⟨_, _, _, _, _, _, _, rfl⟩ := h
  obtain ⟨p, h, buf1, buf2, ka, kb, al, rfl⟩ := k
  exact ⟨p, h, buf1, buf2, ka, kb, al, rfl⟩

theorem State.mapCapturing_turns (s : State) (f : Capture → Capture) : OnlyTurns s (s.mapCapturing f) :=
  ⟨s.rotation.position, s.rotation.hold, _, _, s.driveA.heldKeys, s.driveB.heldKeys, s.alerts, rfl⟩

theorem State.withPosition_turns (s : State) (p : Nat) : OnlyTurns s { s with rotation.position := p } :=
  ⟨p, s.rotation.hold, s.capture.buf1, s.capture.buf2, s.driveA.heldKeys, s.driveB.heldKeys, s.alerts, rfl⟩

theorem State.withHold_turns (s : State) (h : Hold) : OnlyTurns s { s with rotation.hold := h } :=
  ⟨s.rotation.position, h, s.capture.buf1, s.capture.buf2, s.driveA.heldKeys, s.driveB.heldKeys, s.alerts, rfl⟩

theorem State.latch_turns (s : State) (a : Alert) : OnlyTurns s (s.latch a) :=
  ⟨s.rotation.position, s.rotation.hold, s.capture.buf1, s.capture.buf2, s.driveA.heldKeys, s.driveB.heldKeys, _, rfl⟩

theorem State.recordCells_turns (s : State) (w : List Bool) : OnlyTurns s (s.recordCells w) := s.mapCapturing_turns _

theorem State.runTo_turns (s : State) (p : Nat) : OnlyTurns s (s.runTo p) :=
  (s.mapCapturing_turns _).trans (State.withPosition_turns _ p)

/-- An arrival at index touches the captures, the hold state and the held-key sets, and not the counter. -/
theorem State.arrive_changes (s : State) :
    ∃ h buf1 buf2 ka kb, s.arrive = { s with
      rotation.hold := h
      capture.buf1 := buf1
      capture.buf2 := buf2
      driveA.heldKeys := ka
      driveB.heldKeys := kb } := by
  unfold State.arrive
  dsimp only
  split
  · rename_i d k _ _ _
    obtain ⟨ka, kb, joined⟩ := (s.mapCapturing fun c => { c with crossings := c.crossings + 1 }).joinHeld_changes d k
    rw [joined]
    exact ⟨_, _, _, ka, kb, rfl⟩
  · exact ⟨s.rotation.hold, _, _, s.driveA.heldKeys, s.driveB.heldKeys, rfl⟩

theorem State.arrive_turns (s : State) : OnlyTurns s s.arrive := by
  obtain ⟨h, buf1, buf2, ka, kb, changed⟩ := s.arrive_changes
  exact ⟨s.rotation.position, h, buf1, buf2, ka, kb, s.alerts, changed⟩

theorem State.advance_turns (s : State) : OnlyTurns s s.advance := by
  unfold State.advance
  split
  · exact s.withPosition_turns _
  · exact (s.withPosition_turns 0).trans (State.arrive_turns _)

theorem OnlyTurns.cells {s t : State} (h : OnlyTurns s t) : t.rotation.cells = s.rotation.cells := by
  obtain ⟨_, _, _, _, _, _, _, rfl⟩ := h; rfl

theorem OnlyTurns.rate {s t : State} (h : OnlyTurns s t) : t.rotation.rate = s.rotation.rate := by
  obtain ⟨_, _, _, _, _, _, _, rfl⟩ := h; rfl

theorem OnlyTurns.slots {s t : State} (h : OnlyTurns s t) : t.cache.slots = s.cache.slots := by
  obtain ⟨_, _, _, _, _, _, _, rfl⟩ := h; rfl

theorem OnlyTurns.sameDrives {s t : State} (h : OnlyTurns s t) : SameDrives s t := by
  obtain ⟨_, _, _, _, _, _, _, rfl⟩ := h
  exact ⟨rfl, rfl⟩

theorem OnlyTurns.undisturbed {s t : State} (h : OnlyTurns s t) (hs : s.Undisturbed) : t.Undisturbed := by
  have same := h.sameDrives
  obtain ⟨_, _, _, _, _, _, _, rfl⟩ := h
  refine ⟨hs.steady, fun d => ?_, fun g governing => hs.governing g (same.governing ▸ governing),
    fun a admitted => same.selected.trans (hs.admission a admitted)⟩
  cases d
  · exact hs.spindles .a
  · exact hs.spindles .b

/-! ### The counter -/

@[simp] theorem State.arrive_position (s : State) : s.arrive.rotation.position = s.rotation.position := by
  obtain ⟨h, buf1, buf2, ka, kb, changed⟩ := s.arrive_changes
  rw [changed]

/-- The counter advances by one cell and from its last cell to 0 (R45). -/
theorem State.advance_position (s : State) :
    s.advance.rotation.position
      = if s.rotation.position + 1 < s.rotation.cells then s.rotation.position + 1 else 0 := by
  unfold State.advance
  split
  · rfl
  · exact State.arrive_position _

@[simp] theorem State.recordCells_rotation (s : State) (w : List Bool) : (s.recordCells w).rotation = s.rotation := rfl

@[simp] theorem State.runTo_rotation (s : State) (p : Nat) :
    (s.runTo p).rotation = { s.rotation with position := p } := rfl

/-- An arrival at index while ARMED begins a hold on the served key (R52). -/
theorem State.arrive_hold_of_armed {s : State} {k : Key} {d : Drive} (armed : s.rotation.hold = .armed)
    (selected : s.selected = some d) (served : s.servedKey = some k) :
    s.arrive.rotation.hold = .held k d s.settings.holdLimitMs := by
  unfold State.arrive
  have same := (s.mapCapturing_turns fun c => { c with crossings := c.crossings + 1 }).sameDrives
  simp only [State.mapCapturing_rotation, armed, same.selected, selected, same.servedKey, served,
    State.mapCapturing_settings]

/-- The counter's passage from its last cell brings the arrival (R45). -/
theorem State.advance_of_last {s : State} (last : s.rotation.cells ≤ s.rotation.position + 1) :
    s.advance = ({ s with rotation.position := 0 } : State).arrive := if_neg (Nat.not_lt.mpr last)

/-! ### What the commands run -/

/-- A command inside a powered part ends with the rules that hold from moment to moment. -/
theorem State.event_of_powered {s : State} (h : s.powered = true) (effect : State → State) :
    s.event effect = .next (react s (effect s)) := by
  rw [State.event, State.answer, if_pos h]

theorem exec_cellTime_of_held {s : State} (powered : s.powered = true) (held : s.isHeld = true) (w : List Bool) :
    exec (.cellTime w) s = .next (react s s) := by
  show execCellTime w s = _
  rw [execCellTime, State.event_of_powered powered, if_pos held]

theorem exec_cellTime_of_free {s : State} (powered : s.powered = true) (free : s.isHeld = false) (w : List Bool) :
    exec (.cellTime w) s = .next (react s (s.recordCells w).advance) := by
  show execCellTime w s = _
  rw [execCellTime, State.event_of_powered powered, if_neg (Bool.eq_false_iff.mp free)]

theorem exec_arrivalAtIndex_of_free {s : State} (powered : s.powered = true) (free : s.isHeld = false) :
    exec .arrivalAtIndex s = .next (react s ((s.runTo (s.rotation.cells - 1)).recordCells []).advance) := by
  show execArrivalAtIndex s = _
  rw [execArrivalAtIndex, State.event_of_powered powered, if_neg (Bool.eq_false_iff.mp free)]

theorem exec_indexWindowEnd_of_free {s : State} (powered : s.powered = true) (free : s.isHeld = false)
    (window : s.rotation.position * 50 < s.rotation.cells) :
    exec .indexWindowEnd s = .next (react s (s.runTo (min (windowEnd s.rotation.cells) (s.rotation.cells - 1)))) := by
  show execIndexWindowEnd s = _
  rw [execIndexWindowEnd, State.event_of_powered powered, if_neg (by simp [free, window])]

theorem exec_holdLimitExpiry_of_held {s : State} (powered : s.powered = true) (held : s.isHeld = true) :
    exec .holdLimitExpiry s = .next (react s { s.latch .late with rotation.hold := .none }) := by
  show execHoldLimitExpiry s = _
  rw [execHoldLimitExpiry, State.event_of_powered powered, if_pos held]

/-! ### The counter turns (O24) -/

/-- After a change that only turns, the end of the command leaves the counter, the governing track and the slots as the
change left them. -/
theorem State.Undisturbed.react_of_turns {s t : State} (h : s.Undisturbed) (turns : OnlyTurns s t) :
    (react s t).rotation.position = t.rotation.position ∧ (react s t).rotation.cells = s.rotation.cells
      ∧ (react s t).rotation.rate = s.rotation.rate ∧ (react s t).cache.slots = s.cache.slots := by
  have undisturbed := turns.undisturbed h
  obtain ⟨-, deferred, restart⟩ := undisturbed.steady
  obtain ⟨position, cells, rate⟩ := undisturbed.react_counter s
  exact ⟨position, cells.trans turns.cells, rate.trans turns.rate, (react_slots s t restart deferred).trans turns.slots⟩

theorem State.cellTime_turns (s : State) (w : List Bool) : OnlyTurns s (s.recordCells w).advance :=
  (s.recordCells_turns w).trans (State.advance_turns _)

theorem State.arrival_turns (s : State) (p : Nat) : OnlyTurns s ((s.runTo p).recordCells []).advance :=
  (s.runTo_turns p).trans (State.cellTime_turns _ [])

/-- A held counter stands still, and so do the captures (R52). -/
theorem cellTime_of_held {s : State} (h : s.Undisturbed) (held : s.isHeld = true) (w : List Bool) :
    ∃ t, exec (.cellTime w) s = .next t ∧ t.rotation.position = s.rotation.position ∧ t.capture = s.capture
      ∧ t.rotation.cells = s.rotation.cells ∧ t.rotation.rate = s.rotation.rate ∧ t.cache.slots = s.cache.slots := by
  obtain ⟨position, track⟩ := h.react_of_turns (.refl s)
  exact ⟨_, exec_cellTime_of_held h.steady.1 held w, position, h.react_capture s, track⟩

theorem cellTime_of_free {s : State} (h : s.Undisturbed) (free : s.isHeld = false) (w : List Bool) :
    ∃ t, exec (.cellTime w) s = .next t
      ∧ t.rotation.position = (if s.rotation.position + 1 < s.rotation.cells then s.rotation.position + 1 else 0)
      ∧ t.rotation.cells = s.rotation.cells ∧ t.rotation.rate = s.rotation.rate ∧ t.cache.slots = s.cache.slots := by
  obtain ⟨position, track⟩ := h.react_of_turns (s.cellTime_turns w)
  exact ⟨_, exec_cellTime_of_free h.steady.1 free w, position.trans (State.advance_position _), track⟩

theorem arrivalAtIndex_of_free {s : State} (h : s.Undisturbed) (free : s.isHeld = false) :
    ∃ t, exec .arrivalAtIndex s = .next t ∧ t.rotation.position = 0 ∧ t.rotation.cells = s.rotation.cells := by
  obtain ⟨position, cells, -⟩ := h.react_of_turns (s.arrival_turns (s.rotation.cells - 1))
  refine ⟨_, exec_arrivalAtIndex_of_free h.steady.1 free, ?_, cells⟩
  rw [position, State.advance_position]
  exact if_neg (by simp only [State.recordCells_rotation, State.runTo_rotation]; omega)

theorem indexWindowEnd_of_free {s : State} (h : s.Undisturbed) (free : s.isHeld = false)
    (window : s.rotation.position * 50 < s.rotation.cells) :
    ∃ t, exec .indexWindowEnd s = .next t ∧ t.rotation.cells = s.rotation.cells
      ∧ t.rotation.position = min (windowEnd s.rotation.cells) (s.rotation.cells - 1) := by
  obtain ⟨position, cells, -⟩ :=
    h.react_of_turns (s.runTo_turns (min (windowEnd s.rotation.cells) (s.rotation.cells - 1)))
  exact ⟨_, exec_indexWindowEnd_of_free h.steady.1 free window, cells, position⟩

/-- The first position past the window is the first at which R49's condition fails. -/
theorem lt_windowEnd_iff (p cells : Nat) : p < windowEnd cells ↔ p * 50 < cells := by
  unfold windowEnd; omega

/-- Settles O24, command by command; the end of the window by `lt_windowEnd_iff`. -/
theorem counterTurns : Obligations.CounterTurns := by
  intro s steady followed lawful
  have h := State.undisturbed_of_followed steady followed
  refine ⟨fun w => ?cellTime, arrivalAtIndex_of_free h, fun free window => ?windowEnd⟩
  case cellTime =>
    cases turning : s.isHeld with
    | true =>
      obtain ⟨t, run, position, capture, track⟩ := cellTime_of_held h turning w
      exact ⟨t, run, fun _ => ⟨position, capture⟩, fun free => absurd free (by decide), track⟩
    | false =>
      obtain ⟨t, run, position, track⟩ := cellTime_of_free h turning w
      exact ⟨t, run, fun held => absurd held (by decide), fun _ => position, track⟩
  case windowEnd =>
    obtain ⟨t, run, cells, position⟩ := indexWindowEnd_of_free h free window
    have start := (lt_windowEnd_iff s.rotation.position s.rotation.cells).mpr window
    have past := lt_windowEnd_iff t.rotation.position s.rotation.cells
    have inside := lawful.1
    refine ⟨t, run, cells, by omega, by omega, by omega, fun p _ before => ?_⟩
    exact (lt_windowEnd_iff p _).mp (by omega)

/-! ### The hold begins and ends (O25) -/

theorem State.isHeld_of_hold {s : State} {k : Key} {d : Drive} {n : Nat} (hold : s.rotation.hold = .held k d n) :
    s.isHeld = true := by
  rw [State.isHeld, hold]

/-- INDEX is released while the rotation is held (R49, R52). -/
theorem State.index_of_held {s : State} (held : s.isHeld = true) : s.index = false := by
  refine Bool.eq_false_iff.mpr fun asserted => ?_
  obtain ⟨-, -, -, free, -⟩ := s.index_eq_true_iff.mp asserted
  exact Bool.eq_false_iff.mp free held

/-- RDATA is silent while the rotation is held (R52, R61). -/
theorem State.rdata_of_held {s : State} (held : s.isHeld = true) : s.rdata = false := by
  refine State.rdata_of_not_streams (Bool.eq_false_iff.mpr fun streams => ?_)
  obtain ⟨-, -, -, free, -⟩ := s.streams_eq_true_iff.mp streams
  exact Bool.eq_false_iff.mp free held

/-- The passage of an ARMED counter from its last cell begins a hold that stands at the end of the command (R52): `t` is
the state in which the counter stands at that cell. -/
theorem advance_begins_hold {s t : State} {k : Key} {d : Drive} (h : s.Undisturbed) (armable : s.armable = true)
    (selected : s.selected = some d) (served : s.servedKey = some k) (turns : OnlyTurns s t)
    (armed : t.rotation.hold = .armed) (last : s.rotation.cells ≤ t.rotation.position + 1) :
    (react s t.advance).rotation.hold = .held k d s.settings.holdLimitMs
      ∧ (react s t.advance).rotation.position = 0 ∧ k ∈ ((react s t.advance).drive d).heldKeys := by
  obtain ⟨qualifies, absent⟩ := State.armable_conditions armable selected served
  have advanced := turns.trans t.advance_turns
  have same := advanced.sameDrives
  have atIndex := (turns.trans (t.withPosition_turns 0)).sameDrives
  have last : t.rotation.cells ≤ t.rotation.position + 1 := turns.cells ▸ last
  have begins : t.advance.rotation.hold = .held k d s.settings.holdLimitMs := by
    rw [State.advance_of_last last, State.arrive_hold_of_armed (s := { t with rotation.position := 0 }) armed
      (atIndex.selected.trans selected) (atIndex.servedKey.trans served), atIndex.settings]
  obtain ⟨hold, joined⟩ := (advanced.undisturbed h).react_held s begins (same.selected.trans selected)
    (same.servedKey.trans served) ((same.qualifies d).trans qualifies) ((same.isKeyResident k).trans absent)
  obtain ⟨position, -⟩ := h.react_of_turns advanced
  exact ⟨hold, by rw [position, State.advance_position, if_neg (Nat.not_lt.mpr last)], joined⟩

/-- Whichever command brings the arrival, it is the passage of an ARMED counter from its last cell. -/
theorem arrival_is_advance {s : State} {c : Instr} (powered : s.powered = true) (armed : s.rotation.hold = .armed)
    (arrives : c = .arrivalAtIndex ∨ s.rotation.position + 1 = s.rotation.cells ∧ ∃ w, c = .cellTime w) :
    ∃ t, OnlyTurns s t ∧ t.rotation.hold = .armed ∧ s.rotation.cells ≤ t.rotation.position + 1
      ∧ exec c s = .next (react s t.advance) := by
  have free : s.isHeld = false := by rw [State.isHeld, armed]
  rcases arrives with rfl | ⟨last, w, rfl⟩
  · refine ⟨(s.runTo (s.rotation.cells - 1)).recordCells [], (s.runTo_turns _).trans (State.recordCells_turns _ []),
      ?hold, ?last, exec_arrivalAtIndex_of_free powered free⟩
    case hold => rw [State.recordCells_rotation, State.runTo_rotation, armed]
    case last =>
      rw [State.recordCells_rotation, State.runTo_rotation]
      show _ ≤ _ - 1 + 1
      omega
  · refine ⟨s.recordCells w, s.recordCells_turns w, ?_, ?_, exec_cellTime_of_free powered free w⟩
    · rw [State.recordCells_rotation, armed]
    · rw [State.recordCells_rotation]
      exact Nat.le_of_eq last.symm

/-- The hold limit's expiry releases the hold and latches LATE, and the key is not held again (R51, R55). -/
theorem holdLimitExpiry_of_held {s : State} {k : Key} {d : Drive} {n : Nat} (h : s.Undisturbed)
    (hold : s.rotation.hold = .held k d n) (selected : s.selected = some d) (served : s.servedKey = some k)
    (joined : k ∈ (s.drive d).heldKeys) :
    ∃ t, exec .holdLimitExpiry s = .next t ∧ t.rotation.hold = .none ∧ t.isLatched .late = true
      ∧ t.rotation.position = s.rotation.position ∧ k ∈ (t.drive d).heldKeys := by
  have released := (s.latch_turns .late).trans (State.withHold_turns _ .none)
  have same := released.sameDrives
  have keys : k ∈ (({ s.latch .late with rotation.hold := .none } : State).drive d).heldKeys := by
    rw [State.drive_withHold]
    cases d <;> exact joined
  obtain ⟨ended, still⟩ := (released.undisturbed h).react_not_held_again s rfl (same.selected.trans selected)
    (same.servedKey.trans served) keys
  obtain ⟨position, -⟩ := h.react_of_turns released
  exact ⟨_, exec_holdLimitExpiry_of_held h.steady.1 (State.isHeld_of_hold hold), ended,
    react_keeps _ _ .late (s.isLatched_latch_self .late), position, still⟩

/-- Settles O25: the beginning by `advance_begins_hold`, the end by `holdLimitExpiry_of_held`, what R51 and R52 ask of
an ARMED state and of a hold in progress by `State.holdFollows`. -/
theorem holdBeginsAndEnds : Obligations.HoldBeginsAndEnds := by
  refine ⟨fun s d k c steady followed _ armed selected served arrives => ?begins,
    fun s k d n steady followed hold => ?ends⟩
  all_goals
    have h := State.undisturbed_of_followed steady followed
    obtain ⟨-, -, holds, -⟩ := followed
  case begins =>
    have armable : s.armable = true := by simpa only [State.holdFollows, armed] using holds
    obtain ⟨t, turns, stillArmed, last, run⟩ := arrival_is_advance steady.1 armed arrives
    obtain ⟨hold, position, joined⟩ := advance_begins_hold h armable selected served turns stillArmed last
    have held := State.isHeld_of_hold hold
    exact ⟨_, run, hold, position, joined, State.index_of_held held, State.rdata_of_held held⟩
  case ends =>
    simp only [State.holdFollows, hold] at holds
    obtain ⟨selected, served, -, -, joined⟩ := holds
    exact holdLimitExpiry_of_held h hold selected served joined

end Sys2Proof.Machine
end

