-- ==== Sys2Proof/Proofs/FlushOperations.lean ====
section
/-! SUPPORT. What the flusher's operations do to the slot they flush, to the commit queue, the transfer buffer, the card
and the overlay tables, and what they leave alone (R129 to R137). -/

namespace Sys2Proof.Machine

/-! ### What a flush in flight may touch -/

/-- `t` is `s` but for what a flush in flight may touch before its write completes: the slots, the recency order, the
card, the count of free values and the latches, of which it clears none. -/
def OnlyFlush (s t : State) : Prop :=
  KeepsLatches s t ∧ ∃ slots recency card al n,
    t = { s with cache.slots := slots, cache.recency := recency, card := card, alerts := al, freeCount := n }

theorem OnlyFlush.of_card (s : State) (card : Card) : OnlyFlush s { s with card := card } :=
  ⟨KeepsLatches.of_alerts rfl, s.cache.slots, s.cache.recency, card, s.alerts, s.freeCount, rfl⟩

theorem OnlyFlush.trans {s t u : State} (h : OnlyFlush s t) (k : OnlyFlush t u) : OnlyFlush s u := by
  obtain ⟨kept, _, _, _, _, _, rfl⟩ := h
  obtain ⟨keptToo, slots, recency, card, al, n, rfl⟩ := k
  exact ⟨kept.trans keptToo, slots, recency, card, al, n, rfl⟩

theorem OnlyFlush.keeps {s t : State} (h : OnlyFlush s t) : KeepsLatches s t := h.1

theorem OnlyFlush.commit {s t : State} (h : OnlyFlush s t) : t.commit = s.commit := by
  obtain ⟨-, _, _, _, _, _, rfl⟩ := h; rfl

theorem OnlyFlush.steady {s t : State} (h : OnlyFlush s t) (hs : s.steady) : t.steady := by
  obtain ⟨-, _, _, _, _, _, rfl⟩ := h; exact hs

theorem State.latch_onlyFlush (s : State) (a : Alert) : OnlyFlush s (s.latch a) :=
  ⟨s.latch_keeps a, s.cache.slots, s.cache.recency, s.card, _, s.freeCount, rfl⟩

theorem State.latchIf_onlyFlush (s : State) (c : Bool) (a : Alert) : OnlyFlush s (s.latchIf c a) := by
  cases c
  · exact .of_card s s.card
  · exact s.latch_onlyFlush a

theorem State.setSlot_onlyFlush (s : State) (i : Fin 16) (x : Slot) : OnlyFlush s (s.setSlot i x) :=
  ⟨KeepsLatches.of_alerts rfl, _, s.cache.recency, s.card, s.alerts, s.freeCount, rfl⟩

theorem State.cutWrite_onlyFlush (s : State) : OnlyFlush s s.cutWrite := by
  obtain ⟨m, n, cut⟩ := s.cutWrite_changes
  rw [cut]
  exact ⟨KeepsLatches.of_alerts rfl, s.cache.slots, s.cache.recency, _, s.alerts, n, rfl⟩

@[simp] theorem State.slot_latchIf (s : State) (c : Bool) (a : Alert) (i : Fin 16) :
    (s.latchIf c a).slot i = s.slot i :=
  State.slot_congr (by rw [State.latchIf_cache]) i

@[simp] theorem State.slot_cutWrite (s : State) (i : Fin 16) : s.cutWrite.slot i = s.slot i := by
  obtain ⟨m, n, cut⟩ := s.cutWrite_changes
  rw [cut]; rfl

/-! ### The final failure (R137) -/

theorem State.failFlush_onlyFlush (s : State) (op : FlushOp) : OnlyFlush s (s.failFlush op) := by
  obtain ⟨slots, recency, failed⟩ := s.failFlush_changes op
  rw [failed]
  exact ⟨s.latch_keeps .writeFail, slots, recency, _, _, s.freeCount, rfl⟩

/-- The card and the buffer are given back, the card is in write fault, with WRITE_FAIL. -/
theorem State.failFlush_card (s : State) (op : FlushOp) :
    (s.failFlush op).card.holder = .none ∧ (s.failFlush op).card.buffer = none
      ∧ (s.failFlush op).card.writeFault = true ∧ (s.failFlush op).isLatched .writeFail = true := by
  obtain ⟨slots, recency, failed⟩ := s.failFlush_changes op
  rw [failed]
  exact ⟨rfl, rfl, rfl, s.isLatched_latch_self .writeFail⟩

theorem State.failFlush_slot_of_writing {s : State} {op : FlushOp} (writing : (s.slot op.slot).state = .writing) :
    (s.failFlush op).slot op.slot = { s.slot op.slot with state := .held } := by
  simp only [State.failFlush, writing]
  exact s.slot_setSlot_self op.slot _

theorem State.failFlush_slot_of_discarding {s : State} {op : FlushOp}
    (discarding : (s.slot op.slot).state = .discarding) : (s.failFlush op).slot op.slot = Slot.free := by
  simp only [State.failFlush, discarding]
  exact s.slot_free_self op.slot

theorem State.failFlush_slot_other (s : State) (op : FlushOp) {j : Fin 16} (other : j ≠ op.slot) :
    (s.failFlush op).slot j = s.slot j := by
  simp only [State.failFlush]
  split
  · exact s.slot_setSlot_other _ other
  · exact s.slot_free_other other
  · rfl

/-! ### The target (R132) -/

/-- The flush has its target: its snapshot is filled in and its write begins (R132, R133). -/
theorem State.aimFlush_of_target {origin : Origin} {place : Place} {g : Nat}
    (target : flushTarget origin = some (place, g)) (s : State) (op : FlushOp) :
    s.aimFlush op origin = { s with
      card.buffer := s.card.buffer.map fun bs => fillTarget bs op.key.cylinder op.key.head g
      card.holder := .flusher { op with stage := .write place g } } := by
  simp only [State.aimFlush, target]

/-- The flush has no target, and fails at once (R132, R137). -/
theorem State.aimFlush_of_no_target {origin : Origin} (target : flushTarget origin = none) (s : State)
    (op : FlushOp) : s.aimFlush op origin = s.failFlush op := by
  simp only [State.aimFlush, target]

theorem State.aimFlush_onlyFlush (s : State) (op : FlushOp) (origin : Origin) :
    OnlyFlush s (s.aimFlush op origin) := by
  cases target : flushTarget origin with
  | none => rw [State.aimFlush_of_no_target target]; exact s.failFlush_onlyFlush op
  | some aim => rw [State.aimFlush_of_target target]; exact .of_card s _

/-- Of the slot that is flushed, aiming may change the state alone. -/
theorem State.aimFlush_slot {s : State} {op : FlushOp} (writing : (s.slot op.slot).state = .writing)
    (origin : Origin) : ∃ st, (s.aimFlush op origin).slot op.slot = { s.slot op.slot with state := st } := by
  cases target : flushTarget origin with
  | none =>
    rw [State.aimFlush_of_no_target target]
    exact ⟨.held, State.failFlush_slot_of_writing writing⟩
  | some aim =>
    rw [State.aimFlush_of_target target]
    exact ⟨(s.slot op.slot).state, rfl⟩

theorem State.aimFlush_slot_other (s : State) (op : FlushOp) (origin : Origin) {j : Fin 16} (other : j ≠ op.slot) :
    (s.aimFlush op origin).slot j = s.slot j := by
  cases target : flushTarget origin with
  | none => rw [State.aimFlush_of_no_target target]; exact s.failFlush_slot_other op other
  | some aim => rw [State.aimFlush_of_target target]; rfl

/-- What aiming the flush of a WRITING slot with its snapshot in the buffer comes to. -/
theorem State.aimFlush_aimed {s : State} {op : FlushOp} {snapshot : List Byte}
    (buffer : s.card.buffer = some snapshot) (writing : (s.slot op.slot).state = .writing) (origin : Origin) :
    FlushAimed (s.aimFlush op origin) op snapshot origin := by
  unfold FlushAimed
  cases target : flushTarget origin with
  | none =>
    obtain ⟨holder, empty, fault, latched⟩ := s.failFlush_card op
    have held := State.failFlush_slot_of_writing writing
    rw [State.aimFlush_of_no_target target]
    exact ⟨holder, empty, fault, latched, by rw [held]⟩
  | some aim =>
    rw [State.aimFlush_of_target target]
    exact ⟨rfl, by rw [buffer]; rfl, writing⟩

/-- The end of a command leaves an aimed flush aimed. -/
theorem flushAimed_react {t : State} {op : FlushOp} {snapshot : List Byte} {origin : Origin} (s0 : State)
    (steady : t.steady) (aimed : FlushAimed t op snapshot origin) :
    FlushAimed (react s0 t) op snapshot origin := by
  obtain ⟨-, deferred, restart⟩ := steady
  unfold FlushAimed at aimed ⊢
  rw [react_holder s0 t restart deferred, react_buffer s0 t restart deferred, react_slot s0 t restart deferred,
    react_writeFault s0 t restart deferred]
  cases target : flushTarget origin with
  | none =>
    simp only [target] at aimed
    obtain ⟨holder, buffer, fault, latched, held⟩ := aimed
    exact ⟨holder, buffer, fault, react_keeps s0 t _ latched, held⟩
  | some aim => simpa only [target] using aimed

/-! ### The start (R129, R130) -/

/-- The first block of a track in blocks of its area (R188). -/
theorem trackBlock_eq (base heads : Nat) (k : Key) :
    trackBlock base heads k = base + (k.cylinder * heads + k.head) * 128 := by
  simp only [trackBlock, Config.placeBlocks]; omega

/-- A DIRECT image's track is flushed to its own places (R130). -/
theorem State.flushPlan_of_direct {s : State} {k : Key} {e : CatalogueEntry} (entry : s.entry k.image = some e)
    (direct : e.policy = .direct) (x : Slot) :
    s.flushPlan x k = some (.image, none, trackBlock e.base e.heads k, x.origin) := by
  simp only [State.flushPlan, entry, direct]

/-- An OVERLAY image's track is flushed to the scratch area of its drive, a track with no entry as one with no origin
(R130). -/
theorem State.flushPlan_of_overlay {s : State} {k : Key} {e : CatalogueEntry} {d : Drive}
    (entry : s.entry k.image = some e) (overlay : e.policy = .overlay) (mounted : s.mountDrive k.image = some d)
    (x : Slot) :
    s.flushPlan x k = some (.scratch, some d, trackBlock (s.scratchBase d) 2 k,
      ((s.drive d).overlayEntry k).elim .none fun o => .at .scratch o.place o.generation) := by
  simp only [State.flushPlan, entry, overlay, mounted]
  cases (s.drive d).overlayEntry k <;> rfl

/-- The queue head taken: it is WRITING, its record is serialised into the buffer, and the card is the flusher's. -/
def State.flushBegun (s : State) (rest : List (Fin 16)) (r : Record) (op : FlushOp) : State :=
  { (s.departQueue rest).setSlot op.slot (s.slot op.slot).flushing with
    card.buffer := some (serialise r op.key.cylinder op.key.head 0)
    card.holder := .flusher op }

section Begun

variable (s : State) (rest : List (Fin 16)) (r : Record) (op : FlushOp)

theorem State.flushBegun_onlyFlush : OnlyFlush (s.departQueue rest) (s.flushBegun rest r op) :=
  (State.setSlot_onlyFlush _ op.slot _).trans (.of_card _ _)

theorem State.flushBegun_slot : (s.flushBegun rest r op).slot op.slot = (s.slot op.slot).flushing :=
  State.slot_setSlot_self _ op.slot _

theorem State.flushBegun_slot_other {j : Fin 16} (other : j ≠ op.slot) :
    (s.flushBegun rest r op).slot j = s.slot j :=
  State.slot_setSlot_other (s.departQueue rest) _ other

theorem State.flushBegun_writing : ((s.flushBegun rest r op).slot op.slot).state = .writing := by
  rw [s.flushBegun_slot rest r op]; rfl

end Begun

/-- A flush as it starts, from its plan (R130). -/
def FlushOp.starting (i : Fin 16) (k : Key) (plan : Area × Option Drive × Nat × Origin) : FlushOp :=
  { slot := i, key := k, area := plan.1, drive := plan.2.1, base := plan.2.2.1, stage := .probe0 1 }

section Start

variable {s : State} {i : Fin 16} {rest : List (Fin 16)} {k : Key} {r : Record}
  {plan : Area × Option Drive × Nat × Origin}

/-- An UNKNOWN origin is probed for first (R131). -/
theorem State.startFlush_of_unknown (unknown : plan.2.2.2 = .unknown) :
    s.startFlush i rest k r plan = s.flushBegun rest r (.starting i k plan) := if_pos unknown

theorem State.startFlush_of_known (known : plan.2.2.2 ≠ .unknown) :
    s.startFlush i rest k r plan
      = (s.flushBegun rest r (.starting i k plan)).aimFlush (.starting i k plan) plan.2.2.2 := if_neg known

/-- A flush with a known origin is aimed as it starts (R132). -/
theorem State.startFlush_aimed {area : Area} {drive : Option Drive} {base : Nat} {origin : Origin}
    (planned : plan = (area, drive, base, origin)) (known : origin ≠ .unknown) :
    FlushAimed (s.startFlush i rest k r plan)
      { slot := i, key := k, area := area, drive := drive, base := base, stage := .probe0 1 }
      (serialise r k.cylinder k.head 0) origin := by
  subst planned
  rw [State.startFlush_of_known known]
  exact State.aimFlush_aimed rfl (State.flushBegun_writing s rest r _) _

theorem State.startFlush_onlyFlush : OnlyFlush (s.departQueue rest) (s.startFlush i rest k r plan) := by
  have begun := s.flushBegun_onlyFlush rest r (.starting i k plan)
  by_cases unknown : plan.2.2.2 = .unknown
  · rw [State.startFlush_of_unknown unknown]; exact begun
  · rw [State.startFlush_of_known unknown]; exact begun.trans (State.aimFlush_onlyFlush _ _ _)

/-- The slot that is flushed is at its first attempt, whether it is probed for, aimed or has failed at once. -/
theorem State.startFlush_slot :
    ∃ st, (s.startFlush i rest k r plan).slot i = { (s.slot i).flushing with state := st } := by
  have begun : (s.flushBegun rest r (.starting i k plan)).slot i = (s.slot i).flushing :=
    s.flushBegun_slot rest r (.starting i k plan)
  by_cases unknown : plan.2.2.2 = .unknown
  · rw [State.startFlush_of_unknown unknown, begun]
    exact ⟨.writing, rfl⟩
  · obtain ⟨st, aimed⟩ := State.aimFlush_slot (s.flushBegun_writing rest r (.starting i k plan)) plan.2.2.2
    rw [State.startFlush_of_known unknown, ← begun]
    exact ⟨st, aimed⟩

theorem State.startFlush_slot_other {j : Fin 16} (other : j ≠ i) :
    (s.startFlush i rest k r plan).slot j = s.slot j := by
  have begun := s.flushBegun_slot_other rest r (.starting i k plan) other
  by_cases unknown : plan.2.2.2 = .unknown
  · rw [State.startFlush_of_unknown unknown, begun]
  · rw [State.startFlush_of_known unknown]
    exact (State.aimFlush_slot_other _ (.starting i k plan) _ other).trans begun

end Start

/-! ### The probe (R131) -/

theorem State.flushGoesOn_onlyFlush (s : State) (op : FlushOp) (stage : FlushStage) :
    OnlyFlush s (s.flushGoesOn op stage) := .of_card s _

/-- The origin found is in the slot, and the flush is aimed from it. -/
def OriginFound (t : State) (op : FlushOp) (snapshot : List Byte) (origin : Origin) : Prop :=
  (t.slot op.slot).origin = origin ∧ FlushAimed t op snapshot origin

theorem State.foundOrigin_onlyFlush (s : State) (op : FlushOp) (origin : Origin) :
    OnlyFlush s (s.foundOrigin op origin) :=
  (s.setSlot_onlyFlush op.slot _).trans (State.aimFlush_onlyFlush _ op origin)

theorem State.foundOrigin_found {s : State} {op : FlushOp} {snapshot : List Byte}
    (buffer : s.card.buffer = some snapshot) (writing : (s.slot op.slot).state = .writing) (origin : Origin) :
    OriginFound (s.foundOrigin op origin) op snapshot origin := by
  have put := s.slot_setSlot_self op.slot { s.slot op.slot with origin := origin }
  have still : ((s.setSlot op.slot { s.slot op.slot with origin := origin }).slot op.slot).state = .writing := by
    rw [put]; exact writing
  obtain ⟨st, aimed⟩ := State.aimFlush_slot still origin
  refine ⟨?_, State.aimFlush_aimed (s := s.setSlot op.slot _) buffer still origin⟩
  rw [State.foundOrigin, aimed, put]

theorem originFound_react {t : State} {op : FlushOp} {snapshot : List Byte} {origin : Origin} (s0 : State)
    (steady : t.steady) (found : OriginFound t op snapshot origin) : OriginFound (react s0 t) op snapshot origin := by
  have ⟨_, deferred, restart⟩ := steady
  obtain ⟨inSlot, aimed⟩ := found
  exact ⟨by rw [react_slot s0 t restart deferred]; exact inSlot, flushAimed_react s0 steady aimed⟩

theorem State.newerTorn_onlyFlush (s : State) (op : FlushOp) (place : Place) (g : Nat) :
    OnlyFlush s (s.newerTorn op place g) :=
  (s.latch_onlyFlush .recordBad).trans (State.foundOrigin_onlyFlush _ op _)

theorem State.startCheck_onlyFlush (s : State) (op : FlushOp) (place : Place) (head : List Byte) (g : Nat) :
    OnlyFlush s (s.startCheck op place head g) := by
  unfold State.startCheck
  split
  · exact s.flushGoesOn_onlyFlush op _
  · exact s.newerTorn_onlyFlush op place g

theorem State.startCheck_of_good {head : List Byte} (good : lengthGood head = true) (s : State) (op : FlushOp)
    (place : Place) (g : Nat) : s.startCheck op place head g = s.flushGoesOn op (.check 1 place head g) :=
  if_pos good

theorem State.chooseOrigin_onlyFlush (s : State) (op : FlushOp) (h0 h1 : List Byte) :
    OnlyFlush s (s.chooseOrigin op h0 h1) := by
  unfold State.chooseOrigin
  split
  · split
    · exact s.startCheck_onlyFlush op _ _ _
    · exact s.startCheck_onlyFlush op _ _ _
  · exact s.foundOrigin_onlyFlush op _
  · exact s.foundOrigin_onlyFlush op _
  · exact s.foundOrigin_onlyFlush op _

section Choice

variable (s : State) (op : FlushOp) {h0 h1 : List Byte} {g0 g1 : Nat}

theorem State.chooseOrigin_of_neither (bad0 : ∀ g, placeClass h0 ≠ .valid g) (bad1 : ∀ g, placeClass h1 ≠ .valid g) :
    s.chooseOrigin op h0 h1 = s.foundOrigin op .none := by
  unfold State.chooseOrigin
  split
  next valid0 _ => exact absurd valid0 (bad0 _)
  next valid0 _ => exact absurd valid0 (bad0 _)
  next valid1 _ => exact absurd valid1 (bad1 _)
  next => rfl

theorem State.chooseOrigin_of_first (valid0 : placeClass h0 = .valid g0) (bad1 : ∀ g, placeClass h1 ≠ .valid g) :
    s.chooseOrigin op h0 h1 = s.foundOrigin op (.at op.area .p0 g0) := by
  unfold State.chooseOrigin
  rw [valid0]
  cases class1 : placeClass h1 with
  | valid g => exact absurd class1 (bad1 g)
  | blank => rfl
  | damaged => rfl

theorem State.chooseOrigin_of_second (bad0 : ∀ g, placeClass h0 ≠ .valid g) (valid1 : placeClass h1 = .valid g1) :
    s.chooseOrigin op h0 h1 = s.foundOrigin op (.at op.area .p1 g1) := by
  unfold State.chooseOrigin
  rw [valid1]
  cases class0 : placeClass h0 with
  | valid g => exact absurd class0 (bad0 g)
  | blank => rfl
  | damaged => rfl

/-- Of two VALID places the newer one's record is checked. -/
theorem State.chooseOrigin_of_both (valid0 : placeClass h0 = .valid g0) (valid1 : placeClass h1 = .valid g1) :
    s.chooseOrigin op h0 h1 = if g0 < g1 then s.startCheck op .p1 h1 g0 else s.startCheck op .p0 h0 g1 := by
  simp only [State.chooseOrigin, valid0, valid1]

end Choice

/-! ### The end of a write (R133 to R135) -/

/-- A record is laid from its place's first byte on, in whole blocks. -/
theorem writePlace_eq (m : Memory) (base : Nat) (place : Place) (bs : List Byte) :
    writePlace m base place bs
      = Memory.writeBytes m ((base + (match place with | .p0 => 0 | .p1 => 64)) * 512) (inBlocks bs) := by
  cases place <;> rfl

/-- A track put into an overlay table is found there with its place and generation (R134, R160). -/
theorem DriveUnit.overlayEntry_putOverlay (u : DriveUnit) (k : Key) (place : Place) (g : Nat) :
    (u.putOverlay k place g).overlayEntry k
      = some { cylinder := k.cylinder, head := k.head, place := place, generation := g } := by
  have gone : (u.overlay.filter fun o => !(decide (o.cylinder = k.cylinder) && decide (o.head = k.head))).find?
      (fun o => decide (o.cylinder = k.cylinder) && decide (o.head = k.head)) = none := by
    refine List.find?_eq_none.mpr fun o kept same => ?_
    have differs := (List.mem_filter.mp kept).2
    rw [same] at differs
    exact absurd differs (by decide)
  simp only [DriveUnit.overlayEntry, DriveUnit.putOverlay, List.find?_append, gone]
  simp

/-- `t` is `s` but for what the completion of a write may touch outside the card: the overlay tables, the slots, the
recency order and the commit queue. -/
def OnlyCompletes (s t : State) : Prop :=
  ∃ a b slots recency commit, t = { s with
    driveA.overlay := a, driveB.overlay := b, cache.slots := slots, cache.recency := recency, commit := commit }

theorem OnlyCompletes.card {s t : State} (h : OnlyCompletes s t) : t.card = s.card := by
  obtain ⟨_, _, _, _, _, rfl⟩ := h; rfl

theorem OnlyCompletes.steady {s t : State} (h : OnlyCompletes s t) (hs : s.steady) : t.steady := by
  obtain ⟨_, _, _, _, _, rfl⟩ := h; exact hs

section WriteEnd

variable (s : State) (op : FlushOp) (place : Place) (g : Nat)

theorem State.noteOverlay_changes :
    ∃ a b, s.noteOverlay op place g = { s with driveA.overlay := a, driveB.overlay := b } := by
  unfold State.noteOverlay
  split
  · exact ⟨s.driveA.overlay, s.driveB.overlay, rfl⟩
  · rename_i d _
    cases d
    · exact ⟨_, s.driveB.overlay, rfl⟩
    · exact ⟨s.driveA.overlay, _, rfl⟩

theorem State.noteOverlay_entry {d : Drive} (drive : op.drive = some d) :
    ((s.noteOverlay op place g).drive d).overlayEntry op.key
      = some { cylinder := op.key.cylinder, head := op.key.head, place := place, generation := g } := by
  simp only [State.noteOverlay, drive, State.drive_setDrive_self]
  exact DriveUnit.overlayEntry_putOverlay _ op.key place g

theorem State.completeFlush_changes : OnlyCompletes s (s.completeFlush op place g) := by
  obtain ⟨a, b, noted⟩ :=
    (s.setSlot op.slot ((s.slot op.slot).flushed (.at op.area place g))).noteOverlay_changes op place g
  simp only [State.completeFlush, noted]
  split
  · exact ⟨a, b, _, s.cache.recency, _, rfl⟩
  · exact ⟨a, b, _, s.cache.recency, s.commit, rfl⟩

theorem State.flushSlotDone_changes : OnlyCompletes s (s.flushSlotDone op place g) := by
  unfold State.flushSlotDone
  split
  · exact s.completeFlush_changes op place g
  · exact ⟨s.driveA.overlay, s.driveB.overlay, _, _, s.commit, rfl⟩
  · exact ⟨s.driveA.overlay, s.driveB.overlay, s.cache.slots, s.cache.recency, s.commit, rfl⟩

theorem State.completeFlush_slots :
    (s.completeFlush op place g).cache.slots
      = s.cache.slots.set op.slot ((s.slot op.slot).flushed (.at op.area place g)) := by
  obtain ⟨a, b, noted⟩ :=
    (s.setSlot op.slot ((s.slot op.slot).flushed (.at op.area place g))).noteOverlay_changes op place g
  simp only [State.completeFlush, noted]
  split <;> rfl

theorem State.completeFlush_slot :
    (s.completeFlush op place g).slot op.slot = (s.slot op.slot).flushed (.at op.area place g) :=
  (State.slot_set (s.completeFlush_slots op place g) op.slot).trans (if_pos rfl)

theorem State.completeFlush_slot_other {j : Fin 16} (other : j ≠ op.slot) :
    (s.completeFlush op place g).slot j = s.slot j :=
  (State.slot_set (s.completeFlush_slots op place g) j).trans (if_neg other)

/-- A slot that a merge made redirty joins the queue's tail, the urgent latch tested there (R122, R134). -/
theorem State.completeFlush_commit :
    (s.completeFlush op place g).commit = if (s.slot op.slot).redirty then
        { queue := s.commit.queue ++ [op.slot]
          urgent := if s.settings.urgentOn ≤ s.commit.queue.length + 1 then true else s.commit.urgent }
      else s.commit := by
  obtain ⟨a, b, noted⟩ :=
    (s.setSlot op.slot ((s.slot op.slot).flushed (.at op.area place g))).noteOverlay_changes op place g
  simp only [State.completeFlush, noted]
  split
  · simp only [State.joinQueue, urgentAtJoin, List.length_append, List.length_singleton]
    rfl
  · rfl

theorem State.completeFlush_entry {d : Drive} (drive : op.drive = some d) :
    ((s.completeFlush op place g).drive d).overlayEntry op.key
      = some { cylinder := op.key.cylinder, head := op.key.head, place := place, generation := g } := by
  have noted :=
    (s.setSlot op.slot ((s.slot op.slot).flushed (.at op.area place g))).noteOverlay_entry op place g drive
  simp only [State.completeFlush]
  split
  · cases d <;> exact noted
  · exact noted

theorem State.flushSlotDone_of_writing (writing : (s.slot op.slot).state = .writing) :
    s.flushSlotDone op place g = s.completeFlush op place g := by
  simp only [State.flushSlotDone, writing]

theorem State.flushSlotDone_of_discarding (discarding : (s.slot op.slot).state = .discarding) :
    s.flushSlotDone op place g = s.free op.slot := by
  simp only [State.flushSlotDone, discarding]

theorem State.flushSlotDone_slot_other {j : Fin 16} (other : j ≠ op.slot) :
    (s.flushSlotDone op place g).slot j = s.slot j := by
  unfold State.flushSlotDone
  split
  · exact s.completeFlush_slot_other op place g other
  · exact s.slot_free_other other
  · rfl

/-- The state with the buffer's record laid into the target place (R133). -/
def State.placeWritten : State :=
  { s with card.medium := writePlace s.card.medium op.base place (s.card.buffer.getD []) }

/-- After its record is laid the slot is done with, and the buffer and the card are given back (R134). -/
theorem State.flushWritten_eq :
    s.flushWritten op place g = { (s.placeWritten op place).flushSlotDone op place g with
      card.holder := .none, card.buffer := none } := rfl

theorem State.flushWritten_steady (steady : s.steady) : (s.flushWritten op place g).steady :=
  (State.flushSlotDone_changes (s.placeWritten op place) op place g).steady steady

theorem State.flushWritten_medium {bs : List Byte} (buffer : s.card.buffer = some bs) :
    (s.flushWritten op place g).card.medium = writePlace s.card.medium op.base place bs := by
  have card := (State.flushSlotDone_changes (s.placeWritten op place) op place g).card
  have laid : (s.placeWritten op place).card.medium = writePlace s.card.medium op.base place bs := by
    rw [State.placeWritten, buffer]; rfl
  exact (congrArg Card.medium card).trans laid

theorem State.flushWritten_slot_other {j : Fin 16} (other : j ≠ op.slot) :
    (s.flushWritten op place g).slot j = s.slot j :=
  (s.placeWritten op place).flushSlotDone_slot_other op place g other

/-- A WRITING slot has its origin at the target and no attempts, and is CLEAN or DIRTY again; its queue and its
overlay table follow (R134). -/
theorem State.flushWritten_of_writing (writing : (s.slot op.slot).state = .writing) :
    (s.flushWritten op place g).slot op.slot = (s.slot op.slot).flushed (.at op.area place g)
      ∧ (s.flushWritten op place g).commit = (if (s.slot op.slot).redirty then
          { queue := s.commit.queue ++ [op.slot]
            urgent := if s.settings.urgentOn ≤ s.commit.queue.length + 1 then true else s.commit.urgent }
        else s.commit)
      ∧ ∀ d, op.drive = some d → ((s.flushWritten op place g).drive d).overlayEntry op.key
          = some { cylinder := op.key.cylinder, head := op.key.head, place := place, generation := g } := by
  rw [State.flushWritten_eq, State.flushSlotDone_of_writing (s.placeWritten op place) op place g writing]
  refine ⟨(s.placeWritten op place).completeFlush_slot op place g,
    (s.placeWritten op place).completeFlush_commit op place g, fun d drive => ?_⟩
  have entry := (s.placeWritten op place).completeFlush_entry op place g drive
  cases d <;> exact entry

/-- A DISCARDING slot is FREE, and queue and tables stand (R135). -/
theorem State.flushWritten_of_discarding (discarding : (s.slot op.slot).state = .discarding) :
    (s.flushWritten op place g).slot op.slot = Slot.free ∧ (s.flushWritten op place g).commit = s.commit
      ∧ ∀ d, ((s.flushWritten op place g).drive d).overlay = (s.drive d).overlay := by
  rw [State.flushWritten_eq, State.flushSlotDone_of_discarding (s.placeWritten op place) op place g discarding]
  refine ⟨(s.placeWritten op place).slot_free_self op.slot, rfl, fun d => ?_⟩
  cases d <;> rfl

end WriteEnd

/-! ### A failed attempt (R136) -/

/-- A failed write goes to the next attempt of its flush (R136). -/
theorem State.failAttempt_of_write {s : State} {op : FlushOp} {place : Place} {g : Nat}
    (holder : s.card.holder = .flusher op) (stage : op.stage = .write place g) :
    s.failAttempt = s.failFlushAttempt op := by
  simp only [State.failAttempt, holder, State.failFlushTransfer, stage, FlushStage.attempt]
  exact if_neg (Nat.lt_irrefl _)

/-- Up to three attempts the same write stands (R136). -/
theorem State.failFlushAttempt_of_write {s : State} {op : FlushOp} {place : Place} {g : Nat}
    (stage : op.stage = .write place g) (more : (s.slot op.slot).attempts < Config.maxAttempts) :
    s.failFlushAttempt op
      = { s.setSlot op.slot { s.slot op.slot with attempts := (s.slot op.slot).attempts + 1 } with
          card.holder := .flusher op } := by
  have again : ({ op with stage := op.stage.again } : FlushOp) = op := by
    rw [stage, FlushStage.again, ← stage]
  simp only [State.failFlushAttempt, again]
  exact if_pos more

theorem State.failFlushAttempt_of_last {s : State} {op : FlushOp}
    (last : Config.maxAttempts ≤ (s.slot op.slot).attempts) : s.failFlushAttempt op = s.failFlush op :=
  if_neg (Nat.not_lt.mpr last)

theorem State.failFlushAttempt_onlyFlush (s : State) (op : FlushOp) : OnlyFlush s (s.failFlushAttempt op) := by
  simp only [State.failFlushAttempt]
  split
  · exact (s.setSlot_onlyFlush op.slot _).trans (.of_card _ _)
  · exact s.failFlush_onlyFlush op

/-- A card in write fault asserts WPROT on both drives (R38). -/
theorem State.wprot_of_writeFault {s : State} (fault : s.card.writeFault = true) (d : Drive) : s.wprot d = true := by
  simp [State.wprot, fault]

end Sys2Proof.Machine
end

