-- ==== Sys2Proof/Proofs/FlushCommands.lean ====
section
/-! SUPPORT. The flusher's commands (R129 to R137), each as one operation followed by the end of the command. -/

namespace Sys2Proof.Machine

/-! ### What the commands run -/

/-- FLUSH_START at the flusher's grant starts the flush of the queue head by its plan (R129). -/
theorem exec_flushStart {s : State} {i : Fin 16} {rest : List (Fin 16)} {k : Key} {r : Record}
    {plan : Area × Option Drive × Nat × Origin} (powered : s.powered = true) (grant : s.grant = some .flusher)
    (queue : s.commit.queue = i :: rest) (key : (s.slot i).key = some k) (record : (s.slot i).record = some r)
    (planned : s.flushPlan (s.slot i) k = some plan) :
    exec .flushStart s = .next (react s (s.startFlush i rest k r plan)) := by
  show execFlushStart s = _
  rw [execFlushStart, State.event_of_powered powered, if_pos grant]
  simp only [State.flusherGranted, queue, key, record, planned]

section InFlight

variable {s : State} {op : FlushOp} (powered : s.powered = true) (ready : s.card.state = .ready)
  (holder : s.card.holder = .flusher op)
include ready holder

theorem State.flushInFlight_eq : s.flushInFlight = some op := by
  simp only [State.flushInFlight, ready, holder]

include powered

theorem exec_flushProbeReadEnd (reads : op.stage.isWrite = false) :
    exec (.flushProbeReadEnd .complete) s = .next (react s (s.flushRead op)) := by
  show execFlushProbeReadEnd .complete s = _
  rw [execFlushProbeReadEnd, State.event_of_powered powered]
  simp only [State.flushReadEnd, State.flushInFlight_eq ready holder, reads]
  rfl

theorem exec_flushWriteEnd {place : Place} {g : Nat} (stage : op.stage = .write place g) :
    exec .flushWriteEnd s = .next (react s (s.flushWritten op place g)) := by
  show execFlushWriteEnd s = _
  rw [execFlushWriteEnd, State.event_of_powered powered]
  simp only [State.flushInFlight_eq ready holder, stage]

theorem exec_flushAttemptFailure {place : Place} {g : Nat} (stage : op.stage = .write place g) :
    exec .flushAttemptFailure s = .next (react s (s.cutWrite.failFlushAttempt op)) := by
  have still : s.cutWrite.card.holder = .flusher op := by
    obtain ⟨m, n, cut⟩ := s.cutWrite_changes
    rw [cut]; exact holder
  show execFlushAttemptFailure s = _
  rw [execFlushAttemptFailure, State.event_of_powered powered]
  simp only [State.flushInFlight_eq ready holder, stage, FlushStage.isWrite, if_true,
    State.failAttempt_of_write still stage]

end InFlight

/-! ### The target (O43) -/

/-- The place other than the origin's, and the next generation. -/
theorem flushTarget_of_lt {g : Nat} (more : g < Config.maxGeneration) (area : Area) (place : Place) :
    flushTarget (.at area place g) = some (place.other, g + 1) := if_neg (Nat.ne_of_lt more)

/-- A record of the largest generation has no successor. -/
theorem flushTarget_of_max (area : Area) (place : Place) :
    flushTarget (.at area place Config.maxGeneration) = none := by rw [flushTarget, if_pos rfl]

/-- Settles O43: each origin's target read off the definition. -/
theorem flushTargetIsOtherPlace : Obligations.FlushTargetIsOtherPlace :=
  ⟨rfl, fun area _ more => flushTarget_of_lt more area .p0, fun area _ more => flushTarget_of_lt more area .p1,
    flushTarget_of_max⟩

/-! ### The start (O44) -/

/-- Every image that is flushed has a plan: a DIRECT one, and an OVERLAY one that is mounted (R130). -/
theorem State.flushPlan_exists {s : State} {k : Key} {e : CatalogueEntry} (entry : s.entry k.image = some e)
    (flushed : e.policy = .direct ∨ e.policy = .overlay ∧ s.mountDrive k.image ≠ none) (x : Slot) :
    ∃ plan, s.flushPlan x k = some plan := by
  rcases flushed with direct | ⟨overlay, mounted⟩
  · exact ⟨_, State.flushPlan_of_direct entry direct x⟩
  · obtain ⟨d, mounted⟩ := Option.ne_none_iff_exists'.mp mounted
    exact ⟨_, State.flushPlan_of_overlay entry overlay mounted x⟩

/-- Settles O44: what every start has in common by the lemmas of `State.startFlush`, its aim by the image's plan. -/
theorem flushStartTakesQueueHead : Obligations.FlushStartTakesQueueHead := by
  intro s i rest k r e steady grant queue key record entry flushed snapshot
  obtain ⟨plan, planned⟩ := State.flushPlan_exists entry flushed (s.slot i)
  have changed : OnlyFlush (s.departQueue rest) (s.startFlush i rest k r plan) := State.startFlush_onlyFlush
  have calm : (s.startFlush i rest k r plan).steady := changed.steady steady
  have ⟨_, deferred, restart⟩ := calm
  have slots := react_slot s _ restart deferred
  have commit := (react_commit s _ restart deferred).trans changed.commit
  obtain ⟨st, started⟩ := State.startFlush_slot (s := s) (i := i) (rest := rest) (k := k) (r := r) (plan := plan)
  have head := (slots i).trans started
  have aimed : ∀ {area drive base origin}, plan = (area, drive, base, origin) → origin ≠ .unknown →
      FlushAimed (react s (s.startFlush i rest k r plan))
        { slot := i, key := k, area := area, drive := drive, base := base, stage := .probe0 1 } snapshot origin :=
    fun own known => flushAimed_react s calm (State.startFlush_aimed own known)
  refine ⟨_, exec_flushStart steady.1 grant queue key record planned, by rw [commit]; rfl, by rw [commit]; rfl,
    by rw [head]; rfl, by rw [head]; rfl, by rw [head]; exact key, by rw [head]; exact record,
    fun j other => (slots j).trans (State.startFlush_slot_other other),
    fun direct => ?direct, fun d overlay mounted => ?overlay⟩
  case direct =>
    have own := State.flushPlan_of_direct entry direct (s.slot i)
    rw [trackBlock_eq, planned] at own
    have own := Option.some.inj own
    refine ⟨fun unknown => ?_, aimed own⟩
    have begun := State.startFlush_of_unknown (s := s) (i := i) (rest := rest) (k := k) (r := r) (plan := plan)
      (by rw [own]; exact unknown)
    rw [slots, react_holder s _ restart deferred, react_buffer s _ restart deferred, begun, own]
    exact ⟨rfl, rfl, s.flushBegun_writing rest r (.starting i k _)⟩
  case overlay =>
    have scratch := State.flushPlan_of_overlay entry overlay mounted (s.slot i)
    rw [trackBlock_eq, planned] at scratch
    refine ⟨fun absent => ?_, fun o present => ?_⟩
    · rw [absent] at scratch
      exact aimed (Option.some.inj scratch) Origin.noConfusion
    · rw [present] at scratch
      exact aimed (Option.some.inj scratch) Origin.noConfusion

/-! ### The probe (O45) -/

/-- A flush that goes on with another read does so after the end of the command, its snapshot still in the buffer. -/
theorem react_flushGoesOn {s u : State} {snapshot : List Byte} (steady : u.steady)
    (buffer : u.card.buffer = some snapshot) (op : FlushOp) (stage : FlushStage) :
    (react s (u.flushGoesOn op stage)).card.holder = .flusher { op with stage := stage }
      ∧ (react s (u.flushGoesOn op stage)).card.buffer = some snapshot := by
  obtain ⟨-, deferred, restart⟩ := (u.flushGoesOn_onlyFlush op stage).steady steady
  rw [react_holder s _ restart deferred, react_buffer s _ restart deferred]
  exact ⟨rfl, buffer⟩

/-- An origin found stands after the end of the command. -/
theorem react_foundOrigin {s u : State} {op : FlushOp} {snapshot : List Byte} (steady : u.steady)
    (buffer : u.card.buffer = some snapshot) (writing : (u.slot op.slot).state = .writing) (origin : Origin) :
    OriginFound (react s (u.foundOrigin op origin)) op snapshot origin :=
  originFound_react s ((u.foundOrigin_onlyFlush op origin).steady steady)
    (State.foundOrigin_found buffer writing origin)

/-- A DAMAGED first block latches RECORD_BAD, and nothing that follows clears it. -/
theorem react_recordBad {s u v : State} {b : List Byte} (changed : OnlyFlush (u.latchIf (isDamaged b) .recordBad) v)
    (damaged : placeClass b = .damaged) : (react s v).isLatched .recordBad = true := by
  refine react_keeps s v _ (changed.keeps _ ?_)
  rw [State.isLatched_latchIf, isDamaged, damaged]
  rfl

/-- Settles O45, stage by stage: the two first blocks by the lemmas of `State.chooseOrigin`, the record check by its
outcome. -/
theorem flushProbeFindsOrigin : Obligations.FlushProbeFindsOrigin := by
  intro s op n snapshot steady ready holder buffer writing found h1
  have runs := exec_flushProbeReadEnd steady.1 ready holder
  refine ⟨fun stage => ?first, fun h0 stage => ?second, fun place head g stage => ?check⟩
  case first =>
    refine ⟨_, runs (by rw [stage]; rfl), ?_⟩
    have latched := s.latchIf_onlyFlush (isDamaged (s.readHead op.base .p0)) .recordBad
    simp only [State.flushRead, stage]
    obtain ⟨goesOn, still⟩ := react_flushGoesOn (s := s) (latched.steady steady)
      (by rw [State.latchIf_card]; exact buffer) op (.probe1 1 (s.readHead op.base .p0))
    exact ⟨goesOn, still, react_recordBad (State.flushGoesOn_onlyFlush _ op _)⟩
  case second =>
    refine ⟨_, runs (by rw [stage]; rfl), ?_⟩
    have latched := s.latchIf_onlyFlush (isDamaged h1) .recordBad
    have changed := State.chooseOrigin_onlyFlush (s.latchIf (isDamaged h1) .recordBad) op h0 h1
    simp only [State.flushRead, stage]
    have calm := latched.steady steady
    have buffer : (s.latchIf (isDamaged h1) .recordBad).card.buffer = some snapshot := by
      rw [State.latchIf_card]; exact buffer
    have writing : ((s.latchIf (isDamaged h1) .recordBad).slot op.slot).state = .writing := by
      rw [State.slot_latchIf]; exact writing
    refine ⟨react_recordBad changed, fun bad0 bad1 => ?_, fun g0 valid0 bad1 => ?_, fun g1 bad0 valid1 => ?_,
      fun g0 g1 valid0 valid1 older good => ?_, fun g0 g1 valid0 valid1 newer good => ?_⟩
    · rw [State.chooseOrigin_of_neither _ op bad0 bad1]
      exact react_foundOrigin calm buffer writing _
    · rw [State.chooseOrigin_of_first _ op valid0 bad1]
      exact react_foundOrigin calm buffer writing _
    · rw [State.chooseOrigin_of_second _ op bad0 valid1]
      exact react_foundOrigin calm buffer writing _
    · rw [State.chooseOrigin_of_both _ op valid0 valid1, if_neg (Nat.not_lt.mpr older),
        State.startCheck_of_good good]
      exact react_flushGoesOn calm buffer op _
    · rw [State.chooseOrigin_of_both _ op valid0 valid1, if_pos newer, State.startCheck_of_good good]
      exact react_flushGoesOn calm buffer op _
  case check =>
    refine ⟨_, runs (by rw [stage]; rfl), fun passes => ?_, fun fails => ?_⟩
    · simp only [State.flushRead, stage, passes]
      exact react_foundOrigin steady buffer writing _
    · have latched := s.latch_onlyFlush .recordBad
      have changed := (s.latch .recordBad).foundOrigin_onlyFlush op (.at op.area place.other g)
      simp only [State.flushRead, stage, fails]
      exact ⟨react_foundOrigin (latched.steady steady) buffer writing _,
        react_keeps _ _ _ (changed.keeps _ (s.isLatched_latch_self .recordBad))⟩

/-! ### The end of the write (O46) -/

/-- Settles O46: the card by `State.flushWritten_medium`, the slot, the queue and the tables by the lemma for each of
the slot's two states. -/
theorem flushWriteEndCompletesFlush : Obligations.FlushWriteEndCompletesFlush := by
  intro s op place g bs steady ready holder stage buffer x
  obtain ⟨-, deferred, restart⟩ := s.flushWritten_steady op place g steady
  have slots := react_slot s _ restart deferred
  have commit := react_commit s _ restart deferred
  have overlay := react_overlay s _ restart deferred
  refine ⟨_, exec_flushWriteEnd steady.1 ready holder stage, react_holder s _ restart deferred,
    react_buffer s _ restart deferred,
    (react_medium s _ restart deferred).trans
      ((s.flushWritten_medium op place g buffer).trans (writePlace_eq _ _ place bs)),
    fun j other => (slots j).trans (s.flushWritten_slot_other op place g other),
    fun writing => ?writing, fun discarding => ?discarding⟩
  case writing =>
    obtain ⟨slot, joined, entry⟩ := s.flushWritten_of_writing op place g writing
    refine ⟨(slots op.slot).trans slot, commit.trans joined, fun d drive => ?_⟩
    rw [DriveUnit.overlayEntry, overlay d]
    exact entry d drive
  case discarding =>
    obtain ⟨slot, queue, tables⟩ := s.flushWritten_of_discarding op place g discarding
    exact ⟨(slots op.slot).trans slot, commit.trans queue, fun d => (overlay d).trans (tables d)⟩

/-! ### The failed attempt (O47) -/

/-- Settles O47: an attempt short of the last by `State.failFlushAttempt_of_write`, the last by the lemmas of
`State.failFlush`. -/
theorem flushFailuresRetryThenHold : Obligations.FlushFailuresRetryThenHold := by
  intro s op place g steady ready holder stage x
  have changed := s.cutWrite_onlyFlush.trans (s.cutWrite.failFlushAttempt_onlyFlush op)
  obtain ⟨-, deferred, restart⟩ := changed.steady steady
  have slots := react_slot s _ restart deferred
  have same : s.cutWrite.slot op.slot = x := s.slot_cutWrite op.slot
  have uncut : s.cutWrite.card.buffer = s.card.buffer := by
    obtain ⟨m, n, cut⟩ := s.cutWrite_changes
    rw [cut]
  refine ⟨_, exec_flushAttemptFailure steady.1 ready holder stage,
    (react_commit s _ restart deferred).trans changed.commit, fun more => ?retried, fun last => ?failed⟩
  case retried =>
    rw [react_holder s _ restart deferred, react_buffer s _ restart deferred, slots,
      State.failFlushAttempt_of_write stage (by rw [same]; exact more), ← same]
    exact ⟨rfl, uncut, State.slot_setSlot_self _ _ _⟩
  case failed =>
    have final : s.cutWrite.failFlushAttempt op = s.cutWrite.failFlush op :=
      State.failFlushAttempt_of_last (by rw [same]; exact last)
    obtain ⟨given, empty, fault, latched⟩ := s.cutWrite.failFlush_card op
    rw [final] at deferred restart slots ⊢
    have faulted := (react_writeFault s _ restart deferred).trans fault
    refine ⟨(react_holder s _ restart deferred).trans given, (react_buffer s _ restart deferred).trans empty, faulted,
      react_keeps s _ _ latched, State.wprot_of_writeFault faulted .a, State.wprot_of_writeFault faulted .b,
      fun writing => ?_, fun discarding => ?_⟩
    · rw [slots, State.failFlush_slot_of_writing (by rw [same]; exact writing), same]
    · rw [slots, State.failFlush_slot_of_discarding (by rw [same]; exact discarding)]

end Sys2Proof.Machine
end
